-- ==== Sys2Proof/Word.lean ====
section
/-! DEFINITION. The word types of the block (spec/00_scope.md R6, R8): every quantity is unsigned. -/

namespace Sys2Proof

/-- An 8-bit value: a V register, a timer, a byte of memory or of the display buffer (R6). -/
abbrev Byte := BitVec 8

/-- A 16-bit value: `I`, `PC`, a stack entry, an instruction word (R6). -/
abbrev Word := BitVec 16

/-- A 4-bit value: a nibble of the instruction word (R8, R91), a key code (R274). -/
abbrev Nibble := BitVec 4

/-- The number of a general register, V0 to VF (R21): every 4-bit number names one. -/
abbrev Reg := BitVec 4

/-- The 12-bit address immediate `nnn` (R91, R98). -/
abbrev Addr12 := BitVec 12

end Sys2Proof
end

