-- ==== Sys2Proof/Syntax.lean ====
section
/-! DEFINITION. The 35 instructions (spec/30_encoding.md R95): one constructor per row of
spec/opcode_table.json. Ignored nibbles (R96) are no operands, so no constructor carries them. -/

namespace Sys2Proof

/-- The instructions, in the order of R95. `x` and `y` are register numbers, `kk` an 8-bit and `nnn` a
12-bit immediate, `n` a sprite height (R91, R98). -/
inductive Instr where
  /-- `0nnn` other than CLS and RET: no handler (R126). -/
  | sys (nnn : Addr12)
  | cls
  | ret
  | jp (nnn : Addr12)
  | call (nnn : Addr12)
  | seByte (x : Reg) (kk : Byte)
  | sneByte (x : Reg) (kk : Byte)
  | seReg (x y : Reg)
  | ldByte (x : Reg) (kk : Byte)
  | addByte (x : Reg) (kk : Byte)
  | ldVxVy (x y : Reg)
  | or (x y : Reg)
  | and (x y : Reg)
  | xor (x y : Reg)
  | add (x y : Reg)
  | sub (x y : Reg)
  /-- `Y` is encoded and ignored (R178, R96). -/
  | shr (x : Reg)
  | subn (x y : Reg)
  /-- `Y` is encoded and ignored (R180, R96). -/
  | shl (x : Reg)
  | sneReg (x y : Reg)
  | ldI (nnn : Addr12)
  | ldV0 (nnn : Addr12)
  | rnd (x : Reg) (kk : Byte)
  | drw (x y : Reg) (n : Nibble)
  | skp (x : Reg)
  | sknp (x : Reg)
  | ldVxDt (x : Reg)
  | wKey (x : Reg)
  | ldDtVx (x : Reg)
  | ldStVx (x : Reg)
  | addIVx (x : Reg)
  | ldFVx (x : Reg)
  | ldBVx (x : Reg)
  | ldIVx (x : Reg)
  | ldVxI (x : Reg)
  deriving DecidableEq, Repr

end Sys2Proof
end

