-- ==== Sys2Proof/WellFormed.lean ====
section
/-! DEFINITION. Which instruction terms stand for an instruction word. Field widths are in the types of
Sys2Proof/Syntax.lean; the one relation left to check is that a SYS word is neither CLS nor RET
(spec/30_encoding.md R95 row 1, spec/40_pipeline_and_dispatch.md R126). -/

namespace Sys2Proof

/-- `0nnn` with the trailing byte of CLS is CLS whatever `n1` is (R93, R126). -/
def Instr.notCls (nnn : Addr12) : Bool := nnn.extractLsb' 0 8 != 0xE0#8

/-- `0nnn` with the trailing byte of RET is RET whatever `n1` is (R93, R126). -/
def Instr.notRet (nnn : Addr12) : Bool := nnn.extractLsb' 0 8 != 0xEE#8

/-- The instruction has a word of its own. -/
def Instr.wf : Instr → Bool
  | .sys nnn => Instr.notCls nnn && Instr.notRet nnn
  | .cls | .ret | .jp _ | .call _ | .seByte _ _ | .sneByte _ _ | .seReg _ _ | .ldByte _ _
  | .addByte _ _ | .ldVxVy _ _ | .or _ _ | .and _ _ | .xor _ _ | .add _ _ | .sub _ _ | .shr _
  | .subn _ _ | .shl _ | .sneReg _ _ | .ldI _ | .ldV0 _ | .rnd _ _ | .drw _ _ _ | .skp _ | .sknp _
  | .ldVxDt _ | .wKey _ | .ldDtVx _ | .ldStVx _ | .addIVx _ | .ldFVx _ | .ldBVx _ | .ldIVx _
  | .ldVxI _ => true

end Sys2Proof
end

