-- ==== Sys2Proof/Decode.lean ====
section
/-! DEFINITION. The instruction decoder and the dispatch table (spec/30_encoding.md R90 to R99), total on
any bytes, rejecting by name; after it the encoder, written from the same formats (R92, R95). -/

namespace Sys2Proof

/-- Leading nibble `n0 = ir[15:12]` (R8, R91). -/
def nib0 (ir : Word) : Nibble := ir.extractLsb' 12 4
/-- `n1 = ir[11:8]`, the field `X` (R91). -/
def nib1 (ir : Word) : Nibble := ir.extractLsb' 8 4
/-- `n2 = ir[7:4]`, the field `Y` (R91). -/
def nib2 (ir : Word) : Nibble := ir.extractLsb' 4 4
/-- `n3 = ir[3:0]`, the field `N` (R91). -/
def nib3 (ir : Word) : Nibble := ir.extractLsb' 0 4
/-- `kk = (n2 << 4) | n3` (R91, R98). -/
def fieldKK (ir : Word) : Byte := ir.extractLsb' 0 8
/-- `nnn = (n1 << 8) | (n2 << 4) | n3` (R91, R98). -/
def fieldNNN (ir : Word) : Addr12 := ir.extractLsb' 0 12

/-- Four nibbles side by side, the first the most significant. -/
def word4 (a b c d : Nibble) : Word :=
  (a.setWidth 16 <<< 12) ||| (b.setWidth 16 <<< 8) ||| (c.setWidth 16 <<< 4) ||| d.setWidth 16

/-- The opcode identifier: the operand nibbles zeroed by a rule that depends on the leading nibble (R93). -/
def opcodeId (ir : Word) : Word :=
  if nib0 ir = 0x0#4 ∨ nib0 ir = 0xE#4 ∨ nib0 ir = 0xF#4 then
    word4 (nib0 ir) 0 (nib2 ir) (nib3 ir)
  else if nib0 ir = 0x8#4 then
    word4 (nib0 ir) 0 0 (nib3 ir)
  else
    word4 (nib0 ir) 0 0 0

/-- One entry of the dispatch table: an identifier and the instruction it selects, built from the
fields of the word (R94). -/
structure DispatchRow where
  identifier : Word
  build : Word → Instr

/-- The 34 entries of the dispatch table, rows 2 to 35 of R95. UNVERIFIED: the spec states the
numbers and says that they are from general knowledge (G1; log entry 11). -/
def dispatchTable : List DispatchRow := [
  ⟨0x00E0#16, fun _ => .cls⟩,
  ⟨0x00EE#16, fun _ => .ret⟩,
  ⟨0x1000#16, fun ir => .jp (fieldNNN ir)⟩,
  ⟨0x2000#16, fun ir => .call (fieldNNN ir)⟩,
  ⟨0x3000#16, fun ir => .seByte (nib1 ir) (fieldKK ir)⟩,
  ⟨0x4000#16, fun ir => .sneByte (nib1 ir) (fieldKK ir)⟩,
  ⟨0x5000#16, fun ir => .seReg (nib1 ir) (nib2 ir)⟩,
  ⟨0x6000#16, fun ir => .ldByte (nib1 ir) (fieldKK ir)⟩,
  ⟨0x7000#16, fun ir => .addByte (nib1 ir) (fieldKK ir)⟩,
  ⟨0x8000#16, fun ir => .ldVxVy (nib1 ir) (nib2 ir)⟩,
  ⟨0x8001#16, fun ir => .or (nib1 ir) (nib2 ir)⟩,
  ⟨0x8002#16, fun ir => .and (nib1 ir) (nib2 ir)⟩,
  ⟨0x8003#16, fun ir => .xor (nib1 ir) (nib2 ir)⟩,
  ⟨0x8004#16, fun ir => .add (nib1 ir) (nib2 ir)⟩,
  ⟨0x8005#16, fun ir => .sub (nib1 ir) (nib2 ir)⟩,
  ⟨0x8006#16, fun ir => .shr (nib1 ir)⟩,
  ⟨0x8007#16, fun ir => .subn (nib1 ir) (nib2 ir)⟩,
  ⟨0x800E#16, fun ir => .shl (nib1 ir)⟩,
  ⟨0x9000#16, fun ir => .sneReg (nib1 ir) (nib2 ir)⟩,
  ⟨0xA000#16, fun ir => .ldI (fieldNNN ir)⟩,
  ⟨0xB000#16, fun ir => .ldV0 (fieldNNN ir)⟩,
  ⟨0xC000#16, fun ir => .rnd (nib1 ir) (fieldKK ir)⟩,
  ⟨0xD000#16, fun ir => .drw (nib1 ir) (nib2 ir) (nib3 ir)⟩,
  ⟨0xE09E#16, fun ir => .skp (nib1 ir)⟩,
  ⟨0xE0A1#16, fun ir => .sknp (nib1 ir)⟩,
  ⟨0xF007#16, fun ir => .ldVxDt (nib1 ir)⟩,
  ⟨0xF00A#16, fun ir => .wKey (nib1 ir)⟩,
  ⟨0xF015#16, fun ir => .ldDtVx (nib1 ir)⟩,
  ⟨0xF018#16, fun ir => .ldStVx (nib1 ir)⟩,
  ⟨0xF01E#16, fun ir => .addIVx (nib1 ir)⟩,
  ⟨0xF029#16, fun ir => .ldFVx (nib1 ir)⟩,
  ⟨0xF033#16, fun ir => .ldBVx (nib1 ir)⟩,
  ⟨0xF055#16, fun ir => .ldIVx (nib1 ir)⟩,
  ⟨0xF065#16, fun ir => .ldVxI (nib1 ir)⟩]

/-- The dispatch multiplexer: lookup by equality of the identifier (R94). -/
def selectRow (id : Word) : Option DispatchRow := dispatchTable.find? (·.identifier == id)

/-- What the decoder makes of the bytes at the program counter. -/
inductive Decoded where
  /-- An instruction of the opcode map, with the bytes after it. -/
  | instr (i : Instr) (rest : List Byte)
  /-- A word of families 8, E or F without an entry: `UnknownOpcode` (R97). -/
  | unknownOpcode (ir : Word) (rest : List Byte)
  /-- Fewer than the two bytes of an instruction (R90). -/
  | tooShort
  deriving DecidableEq, Repr

/-- The instruction of a word: its entry's handler, or SYS for the words of family 0 without an entry
(R95 row 1, R126); `none` for every other word without an entry (R97). -/
def decodeWord (ir : Word) : Option Instr :=
  match selectRow (opcodeId ir) with
  | some row => some (row.build ir)
  | none => if nib0 ir = 0x0#4 then some (.sys (fieldNNN ir)) else none

/-- The byte at the lower address is the high byte of the word (R63, R68, R90). -/
def wordOfBytes (hi lo : Byte) : Word := (hi.setWidth 16 <<< 8) ||| lo.setWidth 16

/-- The high byte of a word, the one at the lower address (R68). -/
def highByte (ir : Word) : Byte := ir.extractLsb' 8 8

/-- The low byte of a word, the one at the higher address (R68). -/
def lowByte (ir : Word) : Byte := ir.extractLsb' 0 8

/-- The decoder on bytes, total (R99). -/
def decode : List Byte → Decoded
  | hi :: lo :: rest =>
    match decodeWord (wordOfBytes hi lo) with
    | some i => .instr i rest
    | none => .unknownOpcode (wordOfBytes hi lo) rest
  | [_] => .tooShort
  | [] => .tooShort

/-- The instruction a decoding names, if any. -/
def Decoded.instr? : Decoded → Option Instr
  | .instr i _ => some i
  | .unknownOpcode _ _ => none
  | .tooShort => none

/-- Format NNN (R92). -/
def wordNNN (n0 : Nibble) (nnn : Addr12) : Word := (n0.setWidth 16 <<< 12) ||| nnn.setWidth 16
/-- Formats XKK and XS (R92). -/
def wordXKK (n0 : Nibble) (x : Reg) (kk : Byte) : Word :=
  (n0.setWidth 16 <<< 12) ||| (x.setWidth 16 <<< 8) ||| kk.setWidth 16
/-- Formats XY and XYN (R92). -/
def wordXYN (n0 : Nibble) (x y : Reg) (n : Nibble) : Word := word4 n0 x y n

/-- The canonical word of an instruction: its pattern in R95 with ignored nibbles zero (R96). -/
def encode : Instr → Word
  | .sys nnn => wordNNN 0x0 nnn
  | .cls => 0x00E0
  | .ret => 0x00EE
  | .jp nnn => wordNNN 0x1 nnn
  | .call nnn => wordNNN 0x2 nnn
  | .seByte x kk => wordXKK 0x3 x kk
  | .sneByte x kk => wordXKK 0x4 x kk
  | .seReg x y => wordXYN 0x5 x y 0x0
  | .ldByte x kk => wordXKK 0x6 x kk
  | .addByte x kk => wordXKK 0x7 x kk
  | .ldVxVy x y => wordXYN 0x8 x y 0x0
  | .or x y => wordXYN 0x8 x y 0x1
  | .and x y => wordXYN 0x8 x y 0x2
  | .xor x y => wordXYN 0x8 x y 0x3
  | .add x y => wordXYN 0x8 x y 0x4
  | .sub x y => wordXYN 0x8 x y 0x5
  | .shr x => wordXYN 0x8 x 0x0 0x6
  | .subn x y => wordXYN 0x8 x y 0x7
  | .shl x => wordXYN 0x8 x 0x0 0xE
  | .sneReg x y => wordXYN 0x9 x y 0x0
  | .ldI nnn => wordNNN 0xA nnn
  | .ldV0 nnn => wordNNN 0xB nnn
  | .rnd x kk => wordXKK 0xC x kk
  | .drw x y n => wordXYN 0xD x y n
  | .skp x => wordXKK 0xE x 0x9E
  | .sknp x => wordXKK 0xE x 0xA1
  | .ldVxDt x => wordXKK 0xF x 0x07
  | .wKey x => wordXKK 0xF x 0x0A
  | .ldDtVx x => wordXKK 0xF x 0x15
  | .ldStVx x => wordXKK 0xF x 0x18
  | .addIVx x => wordXKK 0xF x 0x1E
  | .ldFVx x => wordXKK 0xF x 0x29
  | .ldBVx x => wordXKK 0xF x 0x33
  | .ldIVx x => wordXKK 0xF x 0x55
  | .ldVxI x => wordXKK 0xF x 0x65

/-- The bytes of an instruction as memory holds them, high byte first (R68, R76). -/
def encodeBytes (i : Instr) : List Byte := [highByte (encode i), lowByte (encode i)]

/-- The word of an instruction whose bits are `w`, numbered as spec/opcode_table.json numbers them,
with every bit above `nbits` zero. -/
def tableWord (nbits w : Nat) : Word := BitVec.ofNat 16 (w % 2 ^ nbits)

/-- The instruction the decoder reads from the bytes of `tableWord nbits w` laid out high byte first. -/
def decodeTableWord (nbits w : Nat) : Option Instr :=
  (decode [highByte (tableWord nbits w), lowByte (tableWord nbits w)]).instr?

end Sys2Proof
end

