-- ==== Sys2Proof/Config.lean ====
section
/-! DEFINITION. What an implementation fixes (spec/00_scope.md R6) and the free values: the host's
input ports of a cycle for which the model is given no value (R36, R274, R275). -/

namespace Sys2Proof.Config

/-- `UNKNOWN_OPCODE_POLICY`, left OPEN by the spec (R6, R125, D5). -/
inductive UnknownPolicy where
  /-- An unknown word raises `UnknownOpcode`. -/
  | failFast
  /-- An unknown word is logged and the cycle completes. -/
  | skip
  deriving DecidableEq, Repr

/-- `STACK_CAPACITY`: the two legal values (R6, D3). -/
inductive StackCapacity where
  | sixteen
  | thirtyTwo
  deriving DecidableEq, Repr

/-- How many return addresses the call stack holds (R6, R27). -/
def StackCapacity.entries : StackCapacity → Nat
  | .sixteen => 16
  | .thirtyTwo => 32

/-- `MEM_SIZE`: the legal value, and the one that the spec names as its substitute (R6, D1 on conflict C1;
the table of open parameters in spec/92_eei_decisions.md). -/
inductive MemSize where
  | bytes4095
  | bytes4096
  deriving DecidableEq, Repr

/-- How many bytes of memory are backed (R6, spec/20_memory.md R60). -/
def MemSize.bytes : MemSize → Nat
  | .bytes4095 => 4095
  | .bytes4096 => 4096

/-- `FONT`: any 80 bytes (spec/20_memory.md R66, D20), the byte at address 0 first. -/
abbrev Font := Vector Byte 80

/-- The parameters of one block, fixed for a run (R6, R36, R125, R276; the open parameters collected in
spec/92_eei_decisions.md): every statement holds for all of them. -/
structure Params where
  unknownOpcode : UnknownPolicy
  stackCapacity : StackCapacity
  memSize : MemSize
  font : Font
  deriving DecidableEq, Repr

/-- FREE VALUE: the level of the sixteen key inputs in cycle `n` (R274: free inputs of each step). -/
opaque freeKeys : Nat → BitVec 16

/-- FREE VALUE: the key report in cycle `n`, none yet or a key code (R274, U11). -/
opaque freeKeyReport : Nat → Option Nibble

/-- FREE VALUE: the byte the random source offers in cycle `n`, under no law (R275, D18). -/
opaque freeRandom : Nat → Byte

end Sys2Proof.Config
end

