-- ==== Sys2Proof/Machine/Limits.lean ====
section
/-! DEFINITION. The numbers of the block that its spec fixes or decides (spec/00_scope.md R6, R7) and the
defaults of its parameters, the font table among them (spec/20_memory.md R66). They stand here, and not
in Config, so that a test that shows one of them wrong can have it mended. -/

namespace Sys2Proof.Machine

/-- `PROG_BASE`, the load address and the reset value of `PC` (R6, R37). -/
def progBase : Nat := 0x200

/-- `MAX_PROG_BYTES` (R7, R76). -/
def maxProgBytes (m : Config.MemSize) : Nat := m.bytes - progBase

/-- `FONT_STRIDE`: bytes per glyph (R6). -/
def fontStride : Nat := 5

/-- The greatest digit a font glyph exists for (R66, R67). -/
def lastDigit : Nat := 15

/-- The greatest key number (R274). -/
def lastKey : Nat := 15

/-- `FB_ROWS`: rows of the internal display buffer, margin included (R6, R32). -/
def fbRows : Nat := 36

/-- `FB_COLS`: byte columns of an internal row, margin included (R6, R32). -/
def fbCols : Nat := 9

/-- `FB_VIS_W`: visible pixel columns (R6, R38). -/
def visibleWidth : Nat := 64

/-- `FB_VIS_H`: visible pixel rows (R6, R38). -/
def visibleHeight : Nat := 32

/-- The bytes of the default `FONT`, glyph `d` at byte `5 * d` (R66). UNVERIFIED: the spec states them and
says that they are from general knowledge (G4, D20; log entry 3). -/
def defaultGlyphs : List Byte :=
  [0xF0, 0x90, 0x90, 0x90, 0xF0,  0x20, 0x60, 0x20, 0x20, 0x70] ++
  [0xF0, 0x10, 0xF0, 0x80, 0xF0,  0xF0, 0x10, 0xF0, 0x10, 0xF0] ++
  [0x90, 0x90, 0xF0, 0x10, 0x10,  0xF0, 0x80, 0xF0, 0x10, 0xF0] ++
  [0xF0, 0x80, 0xF0, 0x90, 0xF0,  0xF0, 0x10, 0x20, 0x40, 0x40] ++
  [0xF0, 0x90, 0xF0, 0x90, 0xF0,  0xF0, 0x90, 0xF0, 0x10, 0xF0] ++
  [0xF0, 0x90, 0xF0, 0x90, 0x90,  0xE0, 0x90, 0xE0, 0x90, 0xE0] ++
  [0xF0, 0x80, 0x80, 0x80, 0xF0,  0xE0, 0x90, 0x90, 0x90, 0xE0] ++
  [0xF0, 0x80, 0xF0, 0x80, 0xF0,  0xF0, 0x80, 0xF0, 0x80, 0x80]

/-- The default of `FONT` (R6, R66). -/
def defaultFont : Config.Font := ⟨⟨defaultGlyphs⟩, rfl⟩

/-- The parameters of the block after reset: the spec's defaults (R6; the table of open parameters in
spec/92_eei_decisions.md), and for the policy, which has none there, DESIGN CHOICE `skip`, which the source
calls the reference behaviour (log entry 1). -/
def defaultParams : Config.Params where
  unknownOpcode := .skip
  stackCapacity := .sixteen
  memSize := .bytes4095
  font := defaultFont

end Sys2Proof.Machine
end

