-- ==== Sys2Proof/Machine/State.lean ====
section
/-! DEFINITION. The state of the block (spec/10_state.md R20 to R38) as plain data, its value right after
reset (R37, spec/70_reset_and_hazards.md R300), and why a step can stop. -/

namespace Sys2Proof.Machine

open Sys2Proof

/-- Which array an index left (spec/60_exceptions.md R260, R261). -/
inductive Site where
  /-- The instruction fetch. -/
  | fetch
  /-- LD_B_VX, LD_I_VX, LD_VX_I. -/
  | data
  /-- The sprite bytes of DRW. -/
  | sprite
  /-- The display buffer in DRW. -/
  | display
  /-- The digit of LD_F_VX. -/
  | fontDigit
  /-- The key number of SKP and SKNP. -/
  | keyIndex
  deriving DecidableEq, Repr

/-- The four error kinds (R260). -/
inductive FaultKind where
  | outOfBounds (site : Site)
  | stackOverflow
  | stackUnderflow
  | unknownOpcode
  deriving DecidableEq, Repr

/-- What the fault latch records: a kind with its site, and one number (R33, R262). -/
structure FaultRecord where
  kind : FaultKind
  info : Word
  deriving DecidableEq, Repr

/-- The output events of the block (R273, R278). -/
inductive Event where
  /-- A completed CLS. -/
  | presentClear
  /-- A completed DRW. -/
  | presentDraw
  /-- An unknown word skipped under policy `skip`. -/
  | unknownOpcode (ir : Word)
  deriving DecidableEq, Repr

/-- The levels of the host's input ports during one cycle (R274, R275): `keys[15:0]`, the key report
("none yet" or a key code) and `rnd[7:0]`. -/
structure HostInput where
  keys : BitVec 16
  keyReport : Option Nibble
  rnd : Byte
  deriving DecidableEq, Repr

/-- `MEM` as the bytes that differ from its reset content, in the canonical form of
`Memory.wf` (Sys2Proof/Machine/Memory.lean). -/
abbrev Memory := List Host.Cell

/-- `FB[r][c]`: 36 rows of 9 bytes (R32). -/
abbrev FrameBuffer := Vector (Vector Byte 9) 36

/-- The fields `v` to `fault` are the tuple of R20; the rest are the block's ports and parameters as
plain data (R36; log entries 1, 5, 6, 19), and what one step as an attempt needs (log entry 10). -/
structure State where
  /-- General registers V0 to VF (R21, R22). -/
  v : Vector Byte 16
  /-- Index register (R23). -/
  i : Word
  /-- Program counter (R24). -/
  pc : Word
  /-- Delay timer (R25). -/
  dt : Byte
  /-- Sound timer (R26). -/
  st : Byte
  /-- Call stack storage, `STACK_CAPACITY` entries, the oldest first (R27). -/
  stack : List Word
  /-- How many entries are valid (R28). -/
  sp : Nat
  /-- The address space (R31). -/
  mem : Memory
  /-- The display buffer, visible part and margin (R32). -/
  fb : FrameBuffer
  /-- The fault latch (R33). -/
  fault : Option FaultRecord
  /-- Parameters, constant during a run (R6, R276). -/
  params : Config.Params
  /-- The level of the host's run gate (R128, R276). -/
  run : Bool
  /-- The MODEL'S own field: the cycle that the last step attempted is still in progress, held by W_KEY, so
  that the run gate is not sampled before it ends (R127, R128; log entry 10). -/
  holding : Bool
  /-- The MODEL'S own field: the host's inputs of the coming cycles, one a cycle (log entry 5). -/
  script : List HostInput
  /-- The MODEL'S own field: cycles attempted, the index of the free inputs (log entry 5). -/
  tick : Nat
  /-- The output events so far, the newest first (R273, R278; log entry 19). -/
  events : List Event
  deriving DecidableEq, Repr

/-- A block with the given parameters right after reset, no program loaded (R37, R300). -/
def State.resetWith (p : Config.Params) : State where
  v := Vector.replicate 16 0
  i := 0
  pc := BitVec.ofNat 16 progBase
  dt := 0
  st := 0
  stack := List.replicate p.stackCapacity.entries 0
  sp := 0
  mem := []
  fb := Vector.replicate 36 (Vector.replicate 9 0)
  fault := none
  params := p
  run := true
  holding := false
  script := []
  tick := 0
  events := []

/-- The machine right after reset (R37, R300), with the default parameters (R6; log entry 1). DESIGN CHOICE:
the run gate asserted (log entry 6); the model's own fields empty (log entries 5, 10, 19). -/
def State.reset : State := State.resetWith defaultParams

/-- Why a step takes no next state. No instruction ends in one of these: an error of R260 is an
exception whose entry the spec describes, so it is a next state with the latch set. -/
inductive Fault where
  /-- Raised by `step` alone, on a state whose fault latch is set: "While `FAULT != none` no cycle is
  taken, whatever `run` is" (R265). Safe: the block does nothing until reset (log entry 8). -/
  | halted (f : FaultRecord)
  deriving DecidableEq, Repr

/-- Why an instruction has no meaning. -/
inductive Refusal where
  /-- Raised by an arm of `exec` for an instruction the model gives no meaning; no arm is such an arm
  now. Safe: nothing is claimed of it. -/
  | notModelled (mnemonic : String)
  deriving DecidableEq, Repr

end Sys2Proof.Machine
end

