-- ==== Sys2Proof/Machine/Memory.lean ====
section
/-! DEFINITION. The address space `MEM` (spec/20_memory.md R60 to R66): byte reads and writes over the
canonical list. -/

namespace Sys2Proof.Machine

open Sys2Proof

/-- What an address that no entry lists reads as: the reset content, `FONT` at 0x000 to 0x04F and zero
elsewhere (spec/10_state.md R37, R66; log entry 3). -/
def Memory.unlisted (f : Config.Font) (a : Nat) : Byte := if h : a < 80 then f[a]'h else 0

/-- The byte at an address: the last value written, or the reset content (R70). -/
def Memory.read (f : Config.Font) : Memory → Nat → Byte
  | [], a => Memory.unlisted f a
  | (b, w) :: m, a => if a = b then w else Memory.read f m a

/-- An entry in front of `m`, unless it says what an unlisted address reads as. -/
def Memory.consCell (f : Config.Font) (a : Nat) (v : Byte) (m : Memory) : Memory :=
  if v = Memory.unlisted f a then m else (a, v) :: m

/-- `MEM[a] <- v` (R64), keeping the canonical form. -/
def Memory.write (f : Config.Font) : Memory → Nat → Byte → Memory
  | [], a, v => Memory.consCell f a v []
  | (b, w) :: m, a, v =>
    if a < b then Memory.consCell f a v ((b, w) :: m)
    else if a = b then Memory.consCell f a v m
    else (b, w) :: Memory.write f m a v

/-- Bytes stored at consecutive addresses, ascending (R70). -/
def Memory.writeBytes (f : Config.Font) : Memory → Nat → List Byte → Memory
  | m, _, [] => m
  | m, a, v :: vs => Memory.writeBytes f (Memory.write f m a v) (a + 1) vs

/-- `n` bytes from consecutive addresses, the lowest first (R65, R70). -/
def Memory.readBytes (f : Config.Font) (m : Memory) (a : Nat) : Nat → List Byte
  | 0 => []
  | n + 1 => Memory.read f m a :: Memory.readBytes f m (a + 1) n

/-- Addresses strictly rising from `lo`, all below `size` (R60), no entry equal to the reset content. -/
def Memory.wfFrom (f : Config.Font) (size : Nat) : Nat → Memory → Bool
  | _, [] => true
  | lo, (a, v) :: m =>
    decide (lo ≤ a) && decide (a < size) && decide (v ≠ Memory.unlisted f a) && Memory.wfFrom f size (a + 1) m

/-- The canonical form in a memory of `size` bytes: equal memories are equal lists. -/
def Memory.wf (f : Config.Font) (size : Nat) (m : Memory) : Bool := Memory.wfFrom f size 0 m

end Sys2Proof.Machine
end

