-- ==== Sys2Proof/Machine/Ops.lean ====
section
/-! DEFINITION. The named operations over registers, memory, timers, call stack, display buffer, fault latch and
host inputs, and the frame of a cycle around its execute stage (spec/40_pipeline_and_dispatch.md R120 to
R130). Taking an exception is `State.raise`; there is no return from one (spec/60_exceptions.md R266). -/

namespace Sys2Proof.Machine

open Sys2Proof

/-! ## Registers -/

/-- `V[x]` (spec/10_state.md R21). -/
def State.getV (s : State) (x : Reg) : Byte := s.v[x.toNat]'x.isLt

/-- `V[x] <- b` (R21). -/
def State.setV (s : State) (x : Reg) (b : Byte) : State := { s with v := s.v.set x.toNat b x.isLt }

/-- `I <- w` (R23). -/
def State.setI (s : State) (w : Word) : State := { s with i := w }

/-- `PC <- w` (R24). -/
def State.setPc (s : State) (w : Word) : State := { s with pc := w }

/-- `DT <- b` (R25). -/
def State.setDt (s : State) (b : Byte) : State := { s with dt := b }

/-- `ST <- b` (R26). -/
def State.setSt (s : State) (b : Byte) : State := { s with st := b }

/-- `FB` replaced. -/
def State.setFb (s : State) (fb : FrameBuffer) : State := { s with fb := fb }

/-- VF, the flag output (R22). -/
def flagReg : Reg := 15

/-- A skip: `PC <- (PC + 2) mod 2^16`, exactly 2 whatever is skipped (spec/41_flow.md R158). -/
def State.skipIf (s : State) (c : Bool) : State := if c then s.setPc (s.pc + 2) else s

/-! ## Memory -/

/-- `MEM_SIZE` of this block (spec/00_scope.md R6; log entry 4). -/
def State.memSize (s : State) : Nat := s.params.memSize.bytes

/-- The bounds predicate (spec/20_memory.md R62): `addr + n <= MEM_SIZE`, on unbounded naturals. -/
def State.inBounds (s : State) (addr n : Nat) : Bool := decide (addr + n ≤ s.memSize)

/-- `MEM[a]` (spec/20_memory.md R64). -/
def State.readMem (s : State) (a : Nat) : Byte := Memory.read s.params.font s.mem a

/-- `n` bytes of `MEM` from `a` upwards (spec/20_memory.md R65, R70). -/
def State.readBytes (s : State) (a n : Nat) : List Byte := Memory.readBytes s.params.font s.mem a n

/-- Bytes stored in `MEM` from `a` upwards (spec/20_memory.md R64, R70). -/
def State.writeBytes (s : State) (a : Nat) (bytes : List Byte) : State :=
  { s with mem := Memory.writeBytes s.params.font s.mem a bytes }

/-- The memory of this block is in canonical form, and lists backed addresses only. -/
def State.memWf (s : State) : Bool := Memory.wf s.params.font s.memSize s.mem

/-! ## Call stack -/

/-- How many entries the call stack has (R27). -/
def State.stackCapacity (s : State) : Nat := s.params.stackCapacity.entries

/-- `STACK[k]`; an index outside the storage is never used (R28, log entry 18). -/
def State.stackEntry (s : State) (k : Nat) : Word := s.stack.getD k 0

/-- The mutation of `Push(v)` (R29), after its check. -/
def State.pushed (s : State) (w : Word) : State := { s with stack := s.stack.set s.sp w, sp := s.sp + 1 }

/-- The mutation of `Pop()` (R30), after its check: the popped entry stays as a dead value. -/
def State.popped (s : State) : State := { s with sp := s.sp - 1 }

/-- The result of `Pop()`: the newest valid entry (R28, R30). -/
def State.topOfStack (s : State) : Word := s.stackEntry (s.sp - 1)

/-! ## Display buffer -/

/-- `FB[r][c]`; a place outside the buffer is never used (spec/44_display.md R224). -/
def FrameBuffer.byteAt (fb : FrameBuffer) (r c : Nat) : Byte :=
  if h : r < 36 ∧ c < 9 then (fb[r]'h.1)[c]'h.2 else 0

/-- `FB[r][c] <- b`; nothing outside the buffer is written. -/
def FrameBuffer.setByte (fb : FrameBuffer) (r c : Nat) (b : Byte) : FrameBuffer :=
  if h : r < 36 ∧ c < 9 then fb.set r ((fb[r]'h.1).set c b h.2) h.1 else fb

/-- The buffer with every byte zero, margin included (R220). -/
def FrameBuffer.cleared : FrameBuffer := Vector.replicate 36 (Vector.replicate 9 0)

/-- Internal pixel column `p` of row `r`: bit `7 - (p mod 8)` of byte column `p div 8` (R38). -/
def FrameBuffer.pixel (fb : FrameBuffer) (p r : Nat) : Bool :=
  (FrameBuffer.byteAt fb r (p / 8)).getLsbD (7 - p % 8)

/-! ## Timers, events, host inputs -/

/-- One count down, saturating at zero (R269). -/
def countDown (t : Byte) : Byte := if t = 0 then 0 else t - 1

/-- `update_timers` (R124, R269). -/
def State.updateTimers (s : State) : State := { s with dt := countDown s.dt, st := countDown s.st }

/-- An output event (R273, R278). -/
def State.emit (s : State) (e : Event) : State := { s with events := e :: s.events }

/-- The free values of the ports in cycle `n` (R274, R275): no proof can see what they are. -/
def freeInput (n : Nat) : HostInput where
  keys := Config.freeKeys n
  keyReport := Config.freeKeyReport n
  rnd := Config.freeRandom n

/-- What the input ports show in this cycle: what the script says, and a free value once it is used up
(R36; log entry 5). -/
def State.input (s : State) : HostInput :=
  match s.script with
  | h :: _ => h
  | [] => freeInput s.tick

/-- The cycle has ended and has sampled its inputs; the next one samples others (R274: no relation between
cycles). -/
def State.nextInput (s : State) : State :=
  { s with script := s.script.tail, tick := s.tick + 1, holding := false }

/-- The attempt has sampled its inputs and its cycle is still in progress (R127, R128; log entry 10). -/
def State.held (s : State) : State :=
  { s with script := s.script.tail, tick := s.tick + 1, holding := true }

/-- `key_down(k)`: the level `keys[k]` (R274). -/
def State.keyDown (s : State) (k : Byte) : Bool := s.input.keys.getLsbD k.toNat

/-! ## Taking an exception -/

/-- `raise K(info)`: the latch is set and nothing else is written; no handler, no vector, no saved state
(R264). -/
def State.raise (s : State) (f : FaultRecord) : State := { s with fault := some f }

/-! ## The cycle -/

/-- How an execute stage ends (R120). -/
inductive Stage where
  /-- The handler ran to its end. -/
  | done (s : State)
  /-- The handler raised, before its first write (R123, R264). -/
  | raised (f : FaultRecord)
  /-- The handler waits for a key (R127). -/
  | hold
  deriving DecidableEq, Repr

/-- `MemCheck(addr, n)` in front of the rest of a handler (R62): the whole range is checked before
anything is read or written; the fault records the first address (R262). -/
def State.memCheck (s : State) (site : Site) (addr : Word) (n : Nat) (k : Stage) : Stage :=
  if s.inBounds addr.toNat n then k else .raised ⟨.outOfBounds site, addr⟩

/-- The fetch stage's advance of `PC` (R121). -/
def State.advancePc (s : State) : State := s.setPc (s.pc + 2)

/-- The state at the end of the cycle that began in `s` (R130): timers run only if the handler ran to its
end (R124); a raise leaves what the fetch stage left (R129); a hold changes nothing of the block
(R127) and leaves the cycle in progress (R128). Whatever happens, the attempt has sampled its inputs. -/
def State.endCycle (s : State) : Stage → State
  | .done s2 => s2.updateTimers.nextInput
  | .raised f => (s.advancePc.raise f).nextInput
  | .hold => s.held

/-- The outcome of one step of the block. -/
abbrev StepOutcome := Host.Outcome State Fault Refusal

/-- The cycle whose word is decoded: advance `PC`, run the handler on the advanced state, end the cycle
(R130). Every instruction's meaning is this over its handler (log entry 9). -/
def runCycle (handler : State → Stage) (s : State) : StepOutcome :=
  .next (s.endCycle (handler s.advancePc))

end Sys2Proof.Machine
end

