-- ==== Sys2Proof/Machine/Flags.lean ====
section
/-! DEFINITION. Results and flags of the arithmetic and shift instructions (spec/42_alu.md R176 to R183):
computed exactly on naturals, then narrowed. -/

namespace Sys2Proof.Machine

open Sys2Proof

/-- A flag as VF holds it: 0x00 or 0x01 (spec/10_state.md R22). -/
def flagByte (c : Bool) : Byte := if c then 1 else 0

/-- The sum modulo 256 (R182). -/
def addResult (a b : Byte) : Byte := BitVec.ofNat 8 (a.toNat + b.toNat)

/-- Carry out of an 8-bit addition (R176). -/
def addCarry (a b : Byte) : Bool := decide (a.toNat + b.toNat > 255)

/-- The difference modulo 256 (R182). -/
def subResult (a b : Byte) : Byte := BitVec.ofNat 8 (a.toNat + 256 - b.toNat)

/-- 1 means that no borrow occurred (R177). -/
def subNoBorrow (a b : Byte) : Bool := decide (a.toNat ≥ b.toNat)

/-- One place to the right, bit 7 becomes 0 (R178). -/
def shrResult (a : Byte) : Byte := a >>> 1

/-- The bit that SHR shifts out, bit 0 before the shift (R178). -/
def shrFlag (a : Byte) : Bool := a.getLsbD 0

/-- One place to the left, bit 0 becomes 0 (R180). -/
def shlResult (a : Byte) : Byte := a <<< 1

/-- The bit that SHL shifts out, bit 7 before the shift (R180). -/
def shlFlag (a : Byte) : Bool := a.getLsbD 7

/-- The result first and the flag LAST (R183; the spec's decision D11 on conflict C2): with `X = 15` VF
ends as the flag. -/
def State.setResultFlag (s : State) (x : Reg) (result : Byte) (flag : Bool) : State :=
  (s.setV x result).setV flagReg (flagByte flag)

end Sys2Proof.Machine
end

