-- ==== Sys2Proof/Machine/Alu.lean ====
section
/-! DEFINITION. Register loads, arithmetic, logic, shifts and random (spec/42_alu.md R170 to R184). The
operands of a handler are read from the state it is given, before any write (spec/00_scope.md R10). -/

namespace Sys2Proof.Machine

open Sys2Proof

/-- LD_BYTE: `V[X] <- kk` (R170). -/
def execLdByte (x : Reg) (kk : Byte) (s : State) : StepOutcome :=
  runCycle (fun t => .done (t.setV x kk)) s

/-- ADD_BYTE: `V[X] <- (V[X] + kk) mod 256`, VF not touched as a flag (R171). -/
def execAddByte (x : Reg) (kk : Byte) (s : State) : StepOutcome :=
  runCycle (fun t => .done (t.setV x (addResult (t.getV x) kk))) s

/-- LD_VX_VY: `V[X] <- V[Y]` (R172). -/
def execLdVxVy (x y : Reg) (s : State) : StepOutcome :=
  runCycle (fun t => .done (t.setV x (t.getV y))) s

/-- OR (R173). -/
def execOr (x y : Reg) (s : State) : StepOutcome :=
  runCycle (fun t => .done (t.setV x (t.getV x ||| t.getV y))) s

/-- AND (R174). -/
def execAnd (x y : Reg) (s : State) : StepOutcome :=
  runCycle (fun t => .done (t.setV x (t.getV x &&& t.getV y))) s

/-- XOR (R175). -/
def execXor (x y : Reg) (s : State) : StepOutcome :=
  runCycle (fun t => .done (t.setV x (t.getV x ^^^ t.getV y))) s

/-- ADD: the sum, and the carry in VF (R176). -/
def execAdd (x y : Reg) (s : State) : StepOutcome :=
  runCycle (fun t => .done (t.setResultFlag x (addResult (t.getV x) (t.getV y)) (addCarry (t.getV x) (t.getV y)))) s

/-- SUB: `V[X] - V[Y]`, and "no borrow" in VF (R177). -/
def execSub (x y : Reg) (s : State) : StepOutcome :=
  runCycle (fun t =>
    .done (t.setResultFlag x (subResult (t.getV x) (t.getV y)) (subNoBorrow (t.getV x) (t.getV y)))) s

/-- SHR: `V[X] >> 1`, and the old bit 0 in VF; `V[Y]` is not read (R178). -/
def execShr (x : Reg) (s : State) : StepOutcome :=
  runCycle (fun t => .done (t.setResultFlag x (shrResult (t.getV x)) (shrFlag (t.getV x)))) s

/-- SUBN: `V[Y] - V[X]`, and "no borrow" in VF (R179). -/
def execSubn (x y : Reg) (s : State) : StepOutcome :=
  runCycle (fun t =>
    .done (t.setResultFlag x (subResult (t.getV y) (t.getV x)) (subNoBorrow (t.getV y) (t.getV x)))) s

/-- SHL: `V[X] << 1`, and the old bit 7 in VF; `V[Y]` is not read (R180). -/
def execShl (x : Reg) (s : State) : StepOutcome :=
  runCycle (fun t => .done (t.setResultFlag x (shlResult (t.getV x)) (shlFlag (t.getV x)))) s

/-- RND: `V[X] <- draw_rnd() AND kk`, one byte of the host drawn (R181, spec/60_exceptions.md R275). -/
def execRnd (x : Reg) (kk : Byte) (s : State) : StepOutcome :=
  runCycle (fun t => .done (t.setV x (t.input.rnd &&& kk))) s

end Sys2Proof.Machine
end

