-- ==== Sys2Proof/Machine/Raster.lean ====
section
/-! DEFINITION. The XOR sprite compositor, the collision detector and the edges of the buffer
(spec/44_display.md R222, R223, R224). -/

namespace Sys2Proof.Machine

open Sys2Proof

/-- A sprite byte shifted left by `8 - (x mod 8)` in a 16-bit window (R222). -/
def spriteWindow (x : Nat) (b : Byte) : Word := (b.setWidth 16) <<< (8 - x % 8)

/-- The two bytes of row `r` that span `x`, byte column `x div 8` in the high half (R222). -/
def oldWindow (fb : FrameBuffer) (x r : Nat) : Word :=
  wordOfBytes (FrameBuffer.byteAt fb r (x / 8)) (FrameBuffer.byteAt fb r (x / 8 + 1))

/-- A window written back to its two bytes (R222). -/
def putWindow (fb : FrameBuffer) (x r : Nat) (w : Word) : FrameBuffer :=
  FrameBuffer.setByte (FrameBuffer.setByte fb r (x / 8) (highByte w)) r (x / 8 + 1) (lowByte w)

/-- `(new AND old) != old` (R223). -/
def windowCollides (old new : Word) : Bool := (new &&& old) != old

/-- One sprite row XORed into row `r` (R222). -/
def blitRow (fb : FrameBuffer) (x r : Nat) (b : Byte) : FrameBuffer :=
  putWindow fb x r (oldWindow fb x r ^^^ spriteWindow x b)

/-- Whether that row turns a set pixel off (R223). -/
def rowCollides (fb : FrameBuffer) (x r : Nat) (b : Byte) : Bool :=
  windowCollides (oldWindow fb x r) (oldWindow fb x r ^^^ spriteWindow x b)

/-- The buffer after `Blit(x, y, sprite)`: rows `y`, `y + 1`, ... ascending (R222). -/
def blit (fb : FrameBuffer) (x y : Nat) : List Byte → FrameBuffer
  | [] => fb
  | b :: bs => blit (blitRow fb x y b) x (y + 1) bs

/-- The collision flag of `Blit(x, y, sprite)`, the OR over the rows (R223). -/
def blitCollides (fb : FrameBuffer) (x y : Nat) : List Byte → Bool
  | [] => false
  | b :: bs => rowCollides fb x y b || blitCollides (blitRow fb x y b) x (y + 1) bs

/-- `BlitCheck(x, y, n)` (R224): nothing is addressed when `n = 0`; otherwise both byte columns and every
row must exist. -/
def blitInBounds (x y n : Nat) : Bool :=
  decide (n = 0) || (decide (x / 8 + 1 < fbCols) && decide (y + n ≤ fbRows))

/-- `BlitCheck` in front of the rest of a handler: `OutOfBounds(display)` records `y` and `x` (R224,
spec/60_exceptions.md R262). -/
def Stage.blitCheck (x y : Byte) (n : Nat) (k : Stage) : Stage :=
  if blitInBounds x.toNat y.toNat n then k else .raised ⟨.outOfBounds .display, wordOfBytes y x⟩

end Sys2Proof.Machine
end

