-- ==== Sys2Proof/Machine/Display.lean ====
section
/-! DEFINITION. Display instructions (spec/44_display.md R220, R221). -/

namespace Sys2Proof.Machine

open Sys2Proof

/-- CLS: every byte of `FB` zero, margin included, and `present(clear)` (R220). -/
def execCls (s : State) : StepOutcome :=
  runCycle (fun t => .done ((t.setFb FrameBuffer.cleared).emit .presentClear)) s

/-- The sprite of DRW: `N` bytes at `I` as memory holds them now (R221, spec/20_memory.md R65). -/
def State.sprite (s : State) (n : Nibble) : List Byte := s.readBytes s.i.toNat n.toNat

/-- The draw itself, after both checks: `FB`, then VF, then `present(draw)` (R221). -/
def State.drawn (s : State) (x y : Byte) (sprite : List Byte) : State :=
  ((s.setFb (blit s.fb x.toNat y.toNat sprite)).setV flagReg
    (flagByte (blitCollides s.fb x.toNat y.toNat sprite))).emit .presentDraw

/-- DRW: coordinates captured first, the sprite range checked, then the display bounds (R221, R263). -/
def execDrw (x y : Reg) (n : Nibble) (s : State) : StepOutcome :=
  runCycle (fun t =>
    t.memCheck .sprite t.i n.toNat
      (Stage.blitCheck (t.getV x) (t.getV y) n.toNat
        (.done (t.drawn (t.getV x) (t.getV y) (t.sprite n))))) s

end Sys2Proof.Machine
end

