-- ==== Sys2Proof/Machine/Operands.lean ====
section
/-! DEFINITION. The operand forms (spec/30_encoding.md R92, R98): immediates widened, register ranges,
decimal digits, font digits and key numbers. -/

namespace Sys2Proof.Machine

open Sys2Proof

/-- `zext_16(nnn)` (R98). -/
def zextAddr (nnn : Addr12) : Word := nnn.setWidth 16

/-- `zext_16` of a register value (spec/41_flow.md R157, spec/43_index_memory.md R201). -/
def zextByte (b : Byte) : Word := b.setWidth 16

/-- `zext_8` of a key code (spec/45_input_timers.md R243). -/
def zextKey (k : Nibble) : Byte := k.setWidth 8

/-- How many registers the range `V[0]` to `V[X]` holds: `X` is the inclusive upper bound (R98, R204). -/
def rangeLength (x : Reg) : Nat := x.toNat + 1

/-- `V[0]` to `V[n-1]`, the lowest register first. -/
def State.regList (s : State) : Nat → List Byte
  | 0 => []
  | n + 1 => s.regList n ++ [s.getV (BitVec.ofNat 4 n)]

/-- `V[0]` to `V[X]`, the bytes LD_I_VX stores (R204). -/
def State.regRange (s : State) (x : Reg) : List Byte := s.regList (rangeLength x)

/-- `V[0]` to `V[n-1]` loaded from consecutive bytes at `a`, ascending (R205). -/
def State.loadRegs (s : State) (a : Nat) : Nat → State
  | 0 => s
  | n + 1 => (s.loadRegs a n).setV (BitVec.ofNat 4 n) (s.readMem (a + n))

/-- The three decimal digits of a byte, hundreds first (R203). -/
def decimalDigits (b : Byte) : List Byte :=
  [BitVec.ofNat 8 (b.toNat / 100), BitVec.ofNat 8 (b.toNat / 10 % 10), BitVec.ofNat 8 (b.toNat % 10)]

/-- `FontGlyphAddress(d)` for a digit 0 to 15 (spec/20_memory.md R67). -/
def glyphAddress (d : Byte) : Word := BitVec.ofNat 16 (fontStride * d.toNat)

/-- A digit must be 0 to 15, else `OutOfBounds(d)` (R67, R202). -/
def Stage.digitCheck (d : Byte) (k : Stage) : Stage :=
  if d.toNat ≤ lastDigit then k else .raised ⟨.outOfBounds .fontDigit, zextByte d⟩

/-- A key number must be 0 to 15, else `OutOfBounds(k)` (R240, R241). -/
def Stage.keyCheck (key : Byte) (k : Stage) : Stage :=
  if key.toNat ≤ lastKey then k else .raised ⟨.outOfBounds .keyIndex, zextByte key⟩

end Sys2Proof.Machine
end

