-- ==== Sys2Proof/Machine/Flow.lean ====
section
/-! DEFINITION. Control transfer and conditional skips (spec/41_flow.md R150 to R158). In every handler
`PC` already holds the address of the instruction plus 2 (spec/00_scope.md R9). -/

namespace Sys2Proof.Machine

open Sys2Proof

/-- `PC <- Pop()`, `StackUnderflow` on an empty stack (R150, spec/10_state.md R30). -/
def retHandler (s : State) : Stage :=
  if s.sp = 0 then .raised ⟨.stackUnderflow, 0⟩ else .done (s.popped.setPc s.topOfStack)

/-- `Push(PC)` then `PC <- zext_16(nnn)`, `StackOverflow` on a full stack, recording `nnn` (R152, R29,
spec/60_exceptions.md R262). -/
def callHandler (nnn : Addr12) (s : State) : Stage :=
  if s.stackCapacity ≤ s.sp then .raised ⟨.stackOverflow, zextAddr nnn⟩
  else .done ((s.pushed s.pc).setPc (zextAddr nnn))

/-- RET (R150). -/
def execRet (s : State) : StepOutcome := runCycle retHandler s

/-- JP (R151). -/
def execJp (nnn : Addr12) (s : State) : StepOutcome := runCycle (fun t => .done (t.setPc (zextAddr nnn))) s

/-- CALL (R152). -/
def execCall (nnn : Addr12) (s : State) : StepOutcome := runCycle (callHandler nnn) s

/-- SE_BYTE: skip if equal (R153). -/
def execSeByte (x : Reg) (kk : Byte) (s : State) : StepOutcome :=
  runCycle (fun t => .done (t.skipIf (t.getV x == kk))) s

/-- SNE_BYTE: skip if not equal (R154). -/
def execSneByte (x : Reg) (kk : Byte) (s : State) : StepOutcome :=
  runCycle (fun t => .done (t.skipIf (t.getV x != kk))) s

/-- SE_REG: skip if equal (R155). -/
def execSeReg (x y : Reg) (s : State) : StepOutcome :=
  runCycle (fun t => .done (t.skipIf (t.getV x == t.getV y))) s

/-- SNE_REG: skip if not equal (R156). -/
def execSneReg (x y : Reg) (s : State) : StepOutcome :=
  runCycle (fun t => .done (t.skipIf (t.getV x != t.getV y))) s

/-- LD_V0: `PC <- zext_16(nnn) + zext_16(V[0])` (R157). -/
def execLdV0 (nnn : Addr12) (s : State) : StepOutcome :=
  runCycle (fun t => .done (t.setPc (zextAddr nnn + zextByte (t.getV 0)))) s

end Sys2Proof.Machine
end

