-- ==== Sys2Proof/Machine/IndexMemory.lean ====
section
/-! DEFINITION. Index register and memory instructions (spec/43_index_memory.md R200 to R206). The
address of the `i`-th byte is `I + i` on unbounded naturals; `I` is never changed by an access. -/

namespace Sys2Proof.Machine

open Sys2Proof

/-- LD_I: `I <- zext_16(nnn)`, no bounds check on the value (R200). -/
def execLdI (nnn : Addr12) (s : State) : StepOutcome :=
  runCycle (fun t => .done (t.setI (zextAddr nnn))) s

/-- ADD_I_VX: `I <- (I + zext_16(V[X])) mod 2^16`, VF not written (R201). -/
def execAddIVx (x : Reg) (s : State) : StepOutcome :=
  runCycle (fun t => .done (t.setI (t.i + zextByte (t.getV x)))) s

/-- LD_F_VX: the glyph address of the digit `V[X]` (R202). -/
def execLdFVx (x : Reg) (s : State) : StepOutcome :=
  runCycle (fun t => Stage.digitCheck (t.getV x) (.done (t.setI (glyphAddress (t.getV x))))) s

/-- LD_B_VX: the three decimal digits of `V[X]` at `I`, `I + 1`, `I + 2` (R203). -/
def execLdBVx (x : Reg) (s : State) : StepOutcome :=
  runCycle (fun t =>
    t.memCheck .data t.i 3 (.done (t.writeBytes t.i.toNat (decimalDigits (t.getV x))))) s

/-- LD_I_VX: `V[0]` to `V[X]` at `I` upwards (R204). -/
def execLdIVx (x : Reg) (s : State) : StepOutcome :=
  runCycle (fun t =>
    t.memCheck .data t.i (rangeLength x) (.done (t.writeBytes t.i.toNat (t.regRange x)))) s

/-- LD_VX_I: `V[0]` to `V[X]` from `I` upwards (R205). -/
def execLdVxI (x : Reg) (s : State) : StepOutcome :=
  runCycle (fun t =>
    t.memCheck .data t.i (rangeLength x) (.done (t.loadRegs t.i.toNat (rangeLength x)))) s

end Sys2Proof.Machine
end

