-- ==== Sys2Proof/Machine/InputTimers.lean ====
section
/-! DEFINITION. Keypad and timer instructions (spec/45_input_timers.md R240 to R246). -/

namespace Sys2Proof.Machine

open Sys2Proof

/-- SKP: skip if the key `V[X]` is down (R240). -/
def execSkp (x : Reg) (s : State) : StepOutcome :=
  runCycle (fun t => Stage.keyCheck (t.getV x) (.done (t.skipIf (t.keyDown (t.getV x))))) s

/-- SKNP: skip if the key `V[X]` is not down (R241). -/
def execSknp (x : Reg) (s : State) : StepOutcome :=
  runCycle (fun t => Stage.keyCheck (t.getV x) (.done (t.skipIf (!t.keyDown (t.getV x))))) s

/-- LD_VX_DT: `V[X] <- DT`, the value before this cycle's decrement (R242). -/
def execLdVxDt (x : Reg) (s : State) : StepOutcome :=
  runCycle (fun t => .done (t.setV x t.dt)) s

/-- The wait of W_KEY: hold while no key is reported, else `V[X] <- zext_8(k)` (R243, R127). -/
def waitKey (x : Reg) (s : State) : Stage :=
  match s.input.keyReport with
  | none => .hold
  | some k => .done (s.setV x (zextKey k))

/-- W_KEY (R243). -/
def execWKey (x : Reg) (s : State) : StepOutcome := runCycle (waitKey x) s

/-- LD_DT_VX: `DT <- V[X]`, then decremented by this very cycle (R244, R306). -/
def execLdDtVx (x : Reg) (s : State) : StepOutcome :=
  runCycle (fun t => .done (t.setDt (t.getV x))) s

/-- LD_ST_VX: `ST <- V[X]`, then decremented by this very cycle (R245, R306). -/
def execLdStVx (x : Reg) (s : State) : StepOutcome :=
  runCycle (fun t => .done (t.setSt (t.getV x))) s

end Sys2Proof.Machine
end

