-- ==== Sys2Proof/Machine/System.lean ====
section
/-! DEFINITION. Unknown opcodes and SYS (spec/40_pipeline_and_dispatch.md R125, R126). -/

namespace Sys2Proof.Machine

open Sys2Proof

/-- The execute stage of a word without a handler (R125): `raise UnknownOpcode(ir)` under `fail_fast`;
under `skip` the word is logged and nothing else happens. -/
def unknownOpcode (ir : Word) (s : State) : Stage :=
  match s.params.unknownOpcode with
  | .failFast => .raised ⟨.unknownOpcode, ir⟩
  | .skip => .done (s.emit (.unknownOpcode ir))

/-- The cycle of an unknown word of families 8, E and F (R97, R125). -/
def unknownCycle (ir : Word) (s : State) : StepOutcome := runCycle (unknownOpcode ir) s

/-- SYS: no handler is registered, so the word `0nnn` is an unknown opcode (R126). -/
def execSys (nnn : Addr12) (s : State) : StepOutcome := runCycle (unknownOpcode (encode (.sys nnn))) s

end Sys2Proof.Machine
end

