-- ==== Sys2Proof/Machine/Fetch.lean ====
section
/-! DEFINITION. Whether a cycle is taken, and its fetch and decode stages
(spec/40_pipeline_and_dispatch.md R120, R121, R122, R128, spec/60_exceptions.md R265). -/

namespace Sys2Proof.Machine

open Sys2Proof

/-- The fetch is admitted: `PC + 2 <= MEM_SIZE`, at any parity (R121, spec/20_memory.md R63, R69). -/
def State.canFetch (s : State) : Bool := s.inBounds s.pc.toNat 2

/-- The bytes of the instruction at `PC`, the lower address first (R63). -/
def State.fetchBytes (s : State) : List Byte := s.readBytes s.pc.toNat 2

/-- A fetch fault: `PC` is not advanced, and the latch records it (R121, R129, R262). -/
def State.fetchFault (s : State) : State := (s.raise ⟨.outOfBounds .fetch, s.pc⟩).nextInput

/-- What the block does next. -/
inductive Action where
  /-- Nothing until reset (R265). -/
  | halted (f : FaultRecord)
  /-- Nothing at a cycle boundary while the host's run gate is deasserted (R128). -/
  | paused
  /-- The fetch is not admitted (R121). -/
  | fetchFault
  /-- The word has no handler and no row of the opcode map (R97). -/
  | unknown (ir : Word)
  /-- The word is an instruction of the opcode map. -/
  | execute (i : Instr)
  deriving DecidableEq, Repr

/-- Fetch and decode (R121, R122). Two bytes are always there, so the last case never arises. -/
def State.fetchDecode (s : State) : Action :=
  match decode s.fetchBytes with
  | .instr i _ => .execute i
  | .unknownOpcode ir _ => .unknown ir
  | .tooShort => .fetchFault

/-- A cycle is in progress or is to be taken: the run gate is sampled at cycle boundaries only, so a cycle
that holds goes on whatever the gate is (R128). -/
def State.active (s : State) : Bool := s.holding || s.run

/-- The latch comes before the run gate, and the gate before the fetch (R120, R265). -/
def State.action (s : State) : Action :=
  match s.fault with
  | some f => .halted f
  | none => if s.active then (if s.canFetch then s.fetchDecode else .fetchFault) else .paused

/-- A word stored big-endian at an address (R63, R68). -/
def State.writeWord (s : State) (a : Nat) (w : Word) : State := s.writeBytes a [highByte w, lowByte w]

/-- A word put where the next fetch reads it (if that is memory at all), the run gate asserted: the host's
last two steps of the boot order (spec/70_reset_and_hazards.md R302; log entry 7). -/
def State.placeWord (s : State) (w : Word) : State :=
  { (if s.canFetch then s.writeWord s.pc.toNat w else s) with run := true }

end Sys2Proof.Machine
end

