-- ==== Sys2Proof/Machine/Step.lean ====
section
/-! DEFINITION. One step of the block: the cycle of spec/40_pipeline_and_dispatch.md R130, with what the
block does when no cycle is taken. -/

namespace Sys2Proof.Machine

open Sys2Proof

/-- One step (R130). A halted block takes no cycle until reset (spec/60_exceptions.md R265); a paused one
changes no state (R128). -/
def step (s : State) : Host.Outcome State Fault Refusal :=
  match s.action with
  | .halted f => .fault (.halted f)
  | .paused => .next s
  | .fetchFault => .next s.fetchFault
  | .unknown ir => unknownCycle ir s
  | .execute i => exec i s

/-- `s` with the instruction of spec/opcode_table.json's bits `w` where `step` fetches next (log entry 7). -/
def State.withFetchWord (s : State) (nbits w : Nat) : State := s.placeWord (tableWord nbits w)

end Sys2Proof.Machine
end

