-- ==== Sys2Proof/Machine/Ports.lean ====
section
/-! DEFINITION. The host's side of the block (spec/60_exceptions.md R272 to R279): the status and display
outputs as functions of the state, and what the host does between cycles: reset, the boot order, the run
gate (spec/70_reset_and_hazards.md R300 to R302). No instruction uses anything of this file. -/

namespace Sys2Proof.Machine

open Sys2Proof

/-! ## Outputs -/

/-- The code of a fault kind on `fault_kind` (R260; the spec's decision D9). -/
def FaultKind.code : FaultKind → Nat
  | .outOfBounds _ => 1
  | .stackOverflow => 2
  | .stackUnderflow => 3
  | .unknownOpcode => 4

/-- `fault_valid` (R276). -/
def State.faultValid (s : State) : Bool := s.fault.isSome

/-- `fault_kind`, meaningful while `fault_valid`; 0 is no code (R276, D9). -/
def State.faultKind (s : State) : Nat :=
  match s.fault with
  | some f => f.kind.code
  | none => 0

/-- What `fault_info` shows: a site tag, for the kind that has sites, and one number (R262). -/
structure FaultInfo where
  site : Option Site
  number : Word
  deriving DecidableEq, Repr

/-- The site tag of a fault kind (R261, R262). -/
def FaultKind.site : FaultKind → Option Site
  | .outOfBounds site => some site
  | .stackOverflow => none
  | .stackUnderflow => none
  | .unknownOpcode => none

/-- `fault_info`, meaningful while `fault_valid` (R262, R276). -/
def State.faultInfo (s : State) : Option FaultInfo := s.fault.map fun f => ⟨f.kind.site, f.info⟩

/-- `sound_active` (R276, spec/10_state.md R26). -/
def State.soundActive (s : State) : Bool := s.st != 0

/-- The instruction a cycle would run is W_KEY. -/
def Action.isWKey : Action → Bool
  | .execute (.wKey _) => true
  | _ => false

/-- `waiting_key`: this cycle is a W_KEY that holds, whatever the run gate does meanwhile (R276,
spec/40_pipeline_and_dispatch.md R127, R128). -/
def State.waitingKey (s : State) : Bool := s.action.isWKey && s.input.keyReport.isNone

/-- The picture the host shows: the visible pixels of `FB`, the margin masked off (spec/44_display.md
R225, spec/10_state.md R38). -/
def State.pixelLit (s : State) (p r : Nat) : Bool :=
  decide (p < visibleWidth) && decide (r < visibleHeight) && FrameBuffer.pixel s.fb p r

/-! ## What the host does between cycles -/

/-- Asserting `reset` (R300): every piece of the block's state takes its reset value, whatever it was, and a
cycle that holds is abandoned (R128). The parameters, the gate, the inputs to come and the record of events
are the host's and stay. -/
def State.assertReset (s : State) : State :=
  { State.resetWith s.params with run := s.run, script := s.script, tick := s.tick, events := s.events }

/-- The run gate driven by the host (R128, R276). -/
def State.setRun (s : State) (b : Bool) : State := { s with run := b }

/-- The loader's write access to `MEM` (R276, R302, spec/20_memory.md R72): bytes stored from `a` upwards,
everything else kept. Refused while a cycle may be taken or is in progress, and where memory does not
reach. -/
def State.loaderWrite (s : State) (a : Nat) (bytes : List Byte) : Option State :=
  if !s.active && s.inBounds a bytes.length then some (s.writeBytes a bytes) else none

/-- The boot order (R302): reset with the gate deasserted, which puts the font in place; the image written at
0x200, one that does not fit being refused (spec/20_memory.md R76); the gate asserted. -/
def State.boot (s : State) (image : List Byte) : Option State :=
  ((s.setRun false).assertReset.loaderWrite progBase image).map (·.setRun true)

end Sys2Proof.Machine
end

