-- ==== Sys2Proof/Safety.lean ====
section
/-! DEFINITION. What counts as a safe state, the invariant of the block, and the words claims use for what
a cycle changes and leaves (frames). -/

namespace Sys2Proof.Machine

open Sys2Proof

/-! ## Invariant -/

/-- What every step keeps: memory canonical and inside the backed addresses (spec/20_memory.md R60), the
call stack of its capacity with `0 <= SP <= capacity` (spec/10_state.md R27, R28), the bounds that R24
derives: `PC` at most 0x10FE, every valid return address at most `MEM_SIZE`; and that the cycle in progress,
if there is one, is that of the W_KEY at `PC` (spec/40_pipeline_and_dispatch.md R127; log entry 10). -/
structure State.Inv (s : State) : Prop where
  memWf : s.memWf = true
  stackLength : s.stack.length = s.stackCapacity
  spBound : s.sp ≤ s.stackCapacity
  pcBound : s.pc.toNat ≤ 0x10FE
  returnBound : ∀ k, k < s.sp → (s.stackEntry k).toNat ≤ s.memSize
  holdingKey : s.holding = true → ∃ x, s.action = .execute (.wKey x)

/-- A state in which no error has been latched (spec/10_state.md R33). -/
def State.safe (s : State) : Prop := s.fault = none

/-- "The program has terminated" (spec/70_reset_and_hazards.md R304): the word at `PC` is a JP to its own
address and no fault is latched. -/
def State.spinning (s : State) : Prop :=
  s.fault = none ∧ s.canFetch = true ∧
    wordOfBytes (s.readMem s.pc.toNat) (s.readMem (s.pc.toNat + 1)) =
      wordNNN 0x1 (s.pc.setWidth 12)

/-! ## What a cycle leaves -/

/-- Every general register is unchanged, those that `changed` names apart. -/
def SameRegsBut (changed : Reg → Prop) (s t : State) : Prop := ∀ r, ¬ changed r → t.getV r = s.getV r

/-- Every general register is unchanged. -/
def SameRegs (s t : State) : Prop := ∀ r, t.getV r = s.getV r

/-- Every byte of memory reads as before. -/
def SameMem (s t : State) : Prop := ∀ a, t.readMem a = s.readMem a

/-- Every byte of the display buffer, margin included, is as before. -/
def SameFb (s t : State) : Prop := ∀ r c, FrameBuffer.byteAt t.fb r c = FrameBuffer.byteAt s.fb r c

/-- The call stack is as before, dead entries included. -/
def SameStack (s t : State) : Prop := t.sp = s.sp ∧ t.stack = s.stack

/-- Both timers counted down by one, saturating at zero (spec/60_exceptions.md R269): subtraction on
naturals stops at zero. -/
def TimersStepped (s t : State) : Prop := t.dt.toNat = s.dt.toNat - 1 ∧ t.st.toNat = s.st.toNat - 1

/-- Both timers are as before. -/
def SameTimers (s t : State) : Prop := t.dt = s.dt ∧ t.st = s.st

/-- The parameters and the run gate are as before, and one cycle's inputs have been sampled. -/
def InputsSampled (s t : State) : Prop :=
  t.params = s.params ∧ t.run = s.run ∧ t.script = s.script.tail ∧ t.tick = s.tick + 1

/-- The same, and the cycle has ended, so that `t` is a cycle boundary. -/
def CycleTaken (s t : State) : Prop := InputsSampled s t ∧ t.holding = false

/-- The same, and the cycle is still in progress (spec/40_pipeline_and_dispatch.md R127). -/
def CycleHeld (s t : State) : Prop := InputsSampled s t ∧ t.holding = true

/-- A cycle ran to its end and touched nothing but registers and `PC`: no fault, no event, `I`, memory,
display and stack as before, the timers stepped. -/
def OnlyRegsAndPc (s t : State) : Prop :=
  t.fault = s.fault ∧ t.events = s.events ∧ t.i = s.i ∧ SameMem s t ∧ SameFb s t ∧ SameStack s t ∧
    TimersStepped s t ∧ CycleTaken s t

/-- `PC` moved past the instruction and no further. -/
def NextPc (s t : State) : Prop := t.pc = s.pc + 2

/-- The cycle raised (spec/60_exceptions.md R264, spec/40_pipeline_and_dispatch.md R129): the latch holds
`f`, `PC` stays advanced by the fetch, and nothing else of the block changed, the timers included. -/
def RaisedOnly (f : FaultRecord) (s t : State) : Prop :=
  t.fault = some f ∧ NextPc s t ∧ SameRegs s t ∧ t.i = s.i ∧ SameMem s t ∧ SameFb s t ∧ SameStack s t ∧
    SameTimers s t ∧ t.events = s.events ∧ CycleTaken s t

/-- Nothing of the block's own state (spec/10_state.md R20) changed. -/
def SameBlock (s t : State) : Prop :=
  t.v = s.v ∧ t.i = s.i ∧ t.pc = s.pc ∧ t.dt = s.dt ∧ t.st = s.st ∧ t.stack = s.stack ∧ t.sp = s.sp ∧
    t.mem = s.mem ∧ t.fb = s.fb ∧ t.fault = s.fault

/-! ## Where each error comes from -/

/-- The two bytes at `PC` as a word, high byte first (spec/20_memory.md R63). -/
def State.wordAtPc (s : State) : Word :=
  wordOfBytes (s.readMem s.pc.toNat) (s.readMem (s.pc.toNat + 1))

/-- What an instruction raises, and the number recorded, written from the tables of
spec/60_exceptions.md R261 and R262; DRW's sprite check comes first (R263). -/
def causeOf (s : State) : Instr → Option FaultRecord
  | .sys nnn =>
    if s.params.unknownOpcode = .failFast then some ⟨.unknownOpcode, wordNNN 0x0 nnn⟩ else none
  | .ret => if s.sp = 0 then some ⟨.stackUnderflow, 0⟩ else none
  | .call nnn => if s.sp = s.stackCapacity then some ⟨.stackOverflow, nnn.setWidth 16⟩ else none
  | .ldFVx x =>
    if (s.getV x).toNat > 15 then some ⟨.outOfBounds .fontDigit, (s.getV x).setWidth 16⟩ else none
  | .ldBVx _ => if s.i.toNat + 3 > s.memSize then some ⟨.outOfBounds .data, s.i⟩ else none
  | .ldIVx x => if s.i.toNat + x.toNat + 1 > s.memSize then some ⟨.outOfBounds .data, s.i⟩ else none
  | .ldVxI x => if s.i.toNat + x.toNat + 1 > s.memSize then some ⟨.outOfBounds .data, s.i⟩ else none
  | .drw x y n =>
    if s.i.toNat + n.toNat > s.memSize then some ⟨.outOfBounds .sprite, s.i⟩
    else if n.toNat ≥ 1 ∧ ((s.getV x).toNat > 63 ∨ (s.getV y).toNat + n.toNat > 36) then
      some ⟨.outOfBounds .display, BitVec.ofNat 16 (256 * (s.getV y).toNat + (s.getV x).toNat)⟩
    else none
  | .skp x =>
    if (s.getV x).toNat > 15 then some ⟨.outOfBounds .keyIndex, (s.getV x).setWidth 16⟩ else none
  | .sknp x =>
    if (s.getV x).toNat > 15 then some ⟨.outOfBounds .keyIndex, (s.getV x).setWidth 16⟩ else none
  | .cls | .jp _ | .seByte _ _ | .sneByte _ _ | .seReg _ _ | .sneReg _ _ | .ldByte _ _ | .addByte _ _
  | .ldVxVy _ _ | .or _ _ | .and _ _ | .xor _ _ | .add _ _ | .sub _ _ | .shr _ | .subn _ _ | .shl _
  | .ldI _ | .ldV0 _ | .rnd _ _ | .ldVxDt _ | .wKey _ | .ldDtVx _ | .ldStVx _ | .addIVx _ => none

/-- What the whole cycle raises: the fetch first, then the decoder, then the handler (R261, R263). -/
def causeOfCycle (s : State) : Option FaultRecord :=
  if s.pc.toNat + 2 > s.memSize then some ⟨.outOfBounds .fetch, s.pc⟩
  else
    match decodeWord s.wordAtPc with
    | some i => causeOf s i
    | none => if s.params.unknownOpcode = .failFast then some ⟨.unknownOpcode, s.wordAtPc⟩ else none

/-! ## What each instruction may write -/

/-- The registers an instruction may write: its field `X`, the range up to `X`, and VF for the six
instructions that write it as a flag (spec/10_state.md R21, R22). -/
def mayWriteReg (r : Reg) : Instr → Bool
  | .ldByte x _ | .addByte x _ | .ldVxVy x _ | .or x _ | .and x _ | .xor x _ | .rnd x _ | .ldVxDt x
  | .wKey x => r == x
  | .add x _ | .sub x _ | .shr x | .subn x _ | .shl x => r == x || r == 15
  | .drw _ _ _ => r == 15
  | .ldVxI x => decide (r.toNat ≤ x.toNat)
  | .sys _ | .cls | .ret | .jp _ | .call _ | .seByte _ _ | .sneByte _ _ | .seReg _ _ | .sneReg _ _
  | .ldI _ | .ldV0 _ | .skp _ | .sknp _ | .ldDtVx _ | .ldStVx _ | .addIVx _ | .ldFVx _ | .ldBVx _
  | .ldIVx _ => false

/-- The six instructions that write VF as a flag (R22). -/
def writesFlag : Instr → Bool
  | .add _ _ | .sub _ _ | .shr _ | .subn _ _ | .shl _ | .drw _ _ _ => true
  | _ => false

/-- The instructions that store into memory (spec/20_memory.md R60). -/
def storesMemory : Instr → Bool
  | .ldBVx _ | .ldIVx _ => true
  | _ => false

/-- The instructions that write the display buffer (spec/10_state.md R32). -/
def writesDisplay : Instr → Bool
  | .cls | .drw _ _ _ => true
  | _ => false

/-- The instructions that use the call stack (R27). -/
def usesStack : Instr → Bool
  | .call _ | .ret => true
  | _ => false

/-- The instructions that write `I` (R23). -/
def writesIndex : Instr → Bool
  | .ldI _ | .addIVx _ | .ldFVx _ => true
  | _ => false

/-- The instructions that move `PC` otherwise than past themselves: transfers, skips (R24), and W_KEY
while it holds (spec/40_pipeline_and_dispatch.md R127). -/
def movesPc : Instr → Bool
  | .ret | .jp _ | .call _ | .ldV0 _ | .seByte _ _ | .sneByte _ _ | .seReg _ _ | .sneReg _ _ | .skp _
  | .sknp _ | .wKey _ => true
  | _ => false

/-- The instructions that sample an input port (spec/60_exceptions.md R274, R275). -/
def samplesInput : Instr → Bool
  | .rnd _ _ | .skp _ | .sknp _ | .wKey _ => true
  | _ => false

/-- The bits of an instruction's word that are not ignored (spec/30_encoding.md R96). -/
def readBits : Instr → Word
  | .cls | .ret => 0xF0FF
  | .seReg _ _ | .sneReg _ _ => 0xFFF0
  | .shr _ | .shl _ => 0xFF0F
  | _ => 0xFFFF

/-- The events of a cycle that ran `i`; `raised` says whether it raised (spec/60_exceptions.md R273, R278). -/
def eventsOf (p : Config.Params) (raised : Bool) : Instr → List Event
  | .cls => [.presentClear]
  | .drw _ _ _ => if raised then [] else [.presentDraw]
  | .sys nnn => if p.unknownOpcode = .skip then [.unknownOpcode (wordNNN 0x0 nnn)] else []
  | _ => []

/-- Whether DRW with coordinates `x`, `y` and `n` rows puts a set sprite bit on internal pixel column `p` of
row `q` (spec/44_display.md R222): bit `7 - j` of the `s`-th byte lands on column `x + j` of row `y + s`. -/
def spriteBitAt (s : State) (x y n p q : Nat) : Bool :=
  decide (y ≤ q ∧ q < y + n ∧ x ≤ p ∧ p < x + 8) &&
    (s.readMem (s.i.toNat + (q - y))).getLsbD (7 - (p - x))

end Sys2Proof.Machine
end

