-- ==== Sys2Proof/Certificates/Slice0/Obligations.lean ====
section
/-! DEFINITION. The statements for the provers. Each docstring names the rules of spec/ it formalises; where
one rests on a choice of the spec's own (a decision D<n>) or of the model's (a log entry), it says so. -/

open Sys2Proof Sys2Proof.Machine

/-! ## Encoding -/

/-- Decoding the encoding of a well-formed instruction gives it back, every operand at every value, as a
word and as bytes with anything after them (R90, R92, R95; the numbers are log entry 11). -/
def Obligations.DecodeEncodeRoundTrip : Prop :=
  ∀ i : Instr, i.wf = true →
    decodeWord (encode i) = some i ∧ ∀ rest, decode (encodeBytes i ++ rest) = .instr i rest

/-- A decoded word is the canonical word of the instruction it names, up to the bits R96 ignores, and the
instruction is well formed. -/
def Obligations.DecodedWordUpToIgnoredBits : Prop :=
  ∀ (ir : Word) (i : Instr), decodeWord ir = some i → i.wf = true ∧ encode i = ir &&& readBits i

/-- The words without an instruction are those R97 lists in families 8, E and F; the words of family 0 that
are neither CLS nor RET are SYS (R95 row 1, R126). -/
def Obligations.UnknownWordsExactly : Prop :=
  ∀ ir : Word,
    (decodeWord ir = none ↔
      (nib0 ir = 0x8#4 ∧ (nib3 ir).toNat ∈ [8, 9, 10, 11, 12, 13, 15]) ∨
      (nib0 ir = 0xE#4 ∧ (fieldKK ir).toNat ∉ [0x9E, 0xA1]) ∨
      (nib0 ir = 0xF#4 ∧
        (fieldKK ir).toNat ∉ [0x07, 0x0A, 0x15, 0x18, 0x1E, 0x29, 0x33, 0x55, 0x65])) ∧
    (decodeWord ir = some (.sys (fieldNNN ir)) ↔
      nib0 ir = 0x0#4 ∧ (fieldKK ir).toNat ∉ [0xE0, 0xEE])

/-- The identifier of R93 as the mask its table gives for the leading nibble. -/
def Obligations.IdentifierIsTheMask : Prop :=
  ∀ ir : Word, opcodeId ir =
    ir &&& (if (nib0 ir).toNat ∈ [0, 14, 15] then 0xF0FF#16
      else if (nib0 ir).toNat = 8 then 0xF00F#16 else 0xF000#16)

/-- A few words written out from R95: one per family, two of them with a non-zero ignored nibble (R96). -/
def Obligations.SampleWordsDecode : Prop :=
  decodeWord 0x0AE0#16 = some .cls ∧ decodeWord 0x2FFF#16 = some (.call 0xFFF#12) ∧
  decodeWord 0x5AB7#16 = some (.seReg 0xA#4 0xB#4) ∧ decodeWord 0x8AB7#16 = some (.subn 0xA#4 0xB#4) ∧
  decodeWord 0xA2F0#16 = some (.ldI 0x2F0#12) ∧ decodeWord 0xD12F#16 = some (.drw 0x1#4 0x2#4 0xF#4) ∧
  decodeWord 0xE1A1#16 = some (.sknp 0x1#4) ∧ decodeWord 0xF40A#16 = some (.wKey 0x4#4) ∧
  decodeWord 0xFF65#16 = some (.ldVxI 0xF#4) ∧ decodeWord 0x8AB8#16 = none

/-! ## The step -/

/-- A step runs the decoded instruction (R120, R121, R122, R130): when no fault is latched, the run gate is
asserted or a cycle is in progress (R128), the fetch is admitted, and the bytes at `PC` decode to `i`, the step
is the cycle of `i`. The step adds nothing around `exec`: moving past the word and the timers are in the cycle
(log entry 9). -/
def Obligations.StepRunsTheDecodedInstruction : Prop :=
  ∀ (s : State) (i : Instr) (rest : List Byte), s.fault = none → s.active = true → s.pc.toNat + 2 ≤ s.memSize →
    decode [s.readMem s.pc.toNat, s.readMem (s.pc.toNat + 1)] = .instr i rest →
    step s = exec i s

/-- A fetch that is not admitted, `PC + 2 > MEM_SIZE`: the latch records the `PC`, which is not advanced, and
nothing else of the block changes, the timers included (R121, R129, R262; D8, D10). The bound is the
predicate of D2 on the parameter `MEM_SIZE`, which the spec's decision D1 on conflict C1 puts at 4095, so that
`PC` from 4094 on faults by default (log entry 4). -/
def Obligations.FetchFaultLeavesPc : Prop :=
  ∀ s : State, s.fault = none → s.active = true → s.pc.toNat + 2 > s.memSize →
    ∃ t, step s = .next t ∧ t.fault = some ⟨.outOfBounds .fetch, s.pc⟩ ∧ t.pc = s.pc ∧ SameRegs s t ∧
      t.i = s.i ∧ SameMem s t ∧ SameFb s t ∧ SameStack s t ∧ SameTimers s t ∧ t.events = s.events ∧
      CycleTaken s t

/-- A fetched word without an entry in the dispatch table, SYS words among them (R125, R126; D5, D6): under
`fail_fast` it raises `UnknownOpcode(ir)`; under `skip` it is logged, `PC` has advanced by 2, the timers
step, and nothing else changes. -/
def Obligations.UnknownWordUnderEitherPolicy : Prop :=
  ∀ s : State, s.fault = none → s.active = true → s.pc.toNat + 2 ≤ s.memSize →
    selectRow (opcodeId s.wordAtPc) = none →
    ∃ t, step s = .next t ∧
      (s.params.unknownOpcode = .failFast → RaisedOnly ⟨.unknownOpcode, s.wordAtPc⟩ s t) ∧
      (s.params.unknownOpcode = .skip →
        t.fault = none ∧ NextPc s t ∧ SameRegs s t ∧ t.i = s.i ∧ SameMem s t ∧ SameFb s t ∧
        SameStack s t ∧ TimersStepped s t ∧ t.events = .unknownOpcode s.wordAtPc :: s.events ∧
        CycleTaken s t)

/-- SYS has no handler (R126; D6): its cycle is that of an unknown opcode with the word `0nnn`; under `skip`
it completes as a no-op, under `fail_fast` it raises. -/
def Obligations.SysIsAnUnknownOpcode : Prop :=
  (∀ nnn : Addr12, (nnn.toNat % 256) ∉ [0xE0, 0xEE] →
    decodeWord (wordNNN 0x0 nnn) = some (.sys nnn)) ∧
  ∀ (nnn : Addr12) (s : State),
    (s.params.unknownOpcode = .skip →
      ∃ t, exec (.sys nnn) s = .next t ∧ t.fault = s.fault ∧ NextPc s t ∧ SameRegs s t ∧ t.i = s.i ∧
        SameMem s t ∧ SameFb s t ∧ SameStack s t ∧ TimersStepped s t ∧
        t.events = .unknownOpcode (wordNNN 0x0 nnn) :: s.events ∧ CycleTaken s t) ∧
    (s.params.unknownOpcode = .failFast →
      ∃ t, exec (.sys nnn) s = .next t ∧ RaisedOnly ⟨.unknownOpcode, wordNNN 0x0 nnn⟩ s t)

/-- A step answers a next state exactly while no fault is latched, for every instruction, word, parameter and
host input; with a fault latched it answers that the block is halted, whatever the run gate (R265; D8). The
outcome is the model's own form of what the spec calls no cycle or no step: the halted block is a stop of the
step (log entry 8), the paused block and the held W_KEY are next states (log entries 6 and 10). -/
def Obligations.StepStopsExactlyWhenHalted : Prop :=
  ∀ s : State, (s.fault = none → ∃ t, step s = .next t) ∧
    ∀ f, s.fault = some f → step s = .fault (.halted f)

/-- At a cycle boundary with `run` deasserted no state changes at all, timers included (R128; D23; that this is
a step to the same state is log entry 6). -/
def Obligations.PausedBlockChangesNothing : Prop :=
  ∀ s : State, s.fault = none → s.run = false → s.holding = false → step s = .next s

/-- A store is seen by the very next fetch (R74; D24): LD_I_VX storing over the next instruction is followed
by the instruction that the stored bytes are. -/
def Obligations.StoreIsSeenByTheNextFetch : Prop :=
  ∀ (s : State) (x : Reg) (i : Instr), s.memWf = true → s.fault = none → s.run = true →
    s.pc.toNat + 4 ≤ s.memSize → decodeWord s.wordAtPc = some (.ldIVx x) → 1 ≤ x.toNat →
    s.i = s.pc + 2 → s.i.toNat + x.toNat + 1 ≤ s.memSize →
    decodeWord (wordOfBytes (s.getV 0) (s.getV 1)) = some i →
    ∃ t, step s = .next t ∧ step t = exec i t

/-- "The program has terminated" (R304; D23): in a JP to its own address only the timers change, and the
block stays there. -/
def Obligations.JpToItselfOnlyStepsTimers : Prop :=
  ∀ s : State, s.spinning → s.active = true →
    ∃ t, step s = .next t ∧ t.pc = s.pc ∧ SameRegs s t ∧ t.spinning ∧ OnlyRegsAndPc s t

/-! ## Register loads, arithmetic, logic, shifts, random -/

/-- LD_BYTE (R170): the immediate, and nothing else but `PC` and the timers; VF is an ordinary destination. -/
def Obligations.LoadByte : Prop :=
  (∀ (x : Reg) (kk : Byte), decodeWord (wordXKK 0x6 x kk) = some (.ldByte x kk)) ∧
  ∀ (x : Reg) (kk : Byte) (s : State), ∃ t, exec (.ldByte x kk) s = .next t ∧
    t.getV x = kk ∧ SameRegsBut (· = x) s t ∧ NextPc s t ∧ OnlyRegsAndPc s t

/-- LD_VX_VY (R172): the value of `V[Y]`, no flag. That the instruction exists, and what it does, is the spec's
general knowledge (G2, D7; log entry 11). -/
def Obligations.CopyRegister : Prop :=
  (∀ x y : Reg, decodeWord (word4 0x8 x y 0x0) = some (.ldVxVy x y)) ∧
  ∀ (x y : Reg) (s : State), ∃ t, exec (.ldVxVy x y) s = .next t ∧
    t.getV x = s.getV y ∧ SameRegsBut (· = x) s t ∧ NextPc s t ∧ OnlyRegsAndPc s t

/-- ADD_BYTE (R171): the sum modulo 256; VF is touched only when it is the destination. -/
def Obligations.AddByteWrapsWithoutFlag : Prop :=
  (∀ (x : Reg) (kk : Byte), decodeWord (wordXKK 0x7 x kk) = some (.addByte x kk)) ∧
  ∀ (x : Reg) (kk : Byte) (s : State), ∃ t, exec (.addByte x kk) s = .next t ∧
    (t.getV x).toNat = ((s.getV x).toNat + kk.toNat) % 256 ∧ SameRegsBut (· = x) s t ∧ NextPc s t ∧
    OnlyRegsAndPc s t

/-- OR (R173), AND (R174), XOR (R175): bit by bit, in place, VF not reset. -/
def Obligations.LogicIsBitwise : Prop :=
  (∀ x y : Reg, decodeWord (word4 0x8 x y 0x1) = some (.or x y) ∧
    decodeWord (word4 0x8 x y 0x2) = some (.and x y) ∧ decodeWord (word4 0x8 x y 0x3) = some (.xor x y)) ∧
  ∀ (x y : Reg) (s : State),
    (∃ t, exec (.or x y) s = .next t ∧
      (∀ b, (t.getV x).getLsbD b = ((s.getV x).getLsbD b || (s.getV y).getLsbD b)) ∧
      SameRegsBut (· = x) s t ∧ NextPc s t ∧ OnlyRegsAndPc s t) ∧
    (∃ t, exec (.and x y) s = .next t ∧
      (∀ b, (t.getV x).getLsbD b = ((s.getV x).getLsbD b && (s.getV y).getLsbD b)) ∧
      SameRegsBut (· = x) s t ∧ NextPc s t ∧ OnlyRegsAndPc s t) ∧
    ∃ t, exec (.xor x y) s = .next t ∧
      (∀ b, (t.getV x).getLsbD b = ((s.getV x).getLsbD b != (s.getV y).getLsbD b)) ∧
      SameRegsBut (· = x) s t ∧ NextPc s t ∧ OnlyRegsAndPc s t

/-- ADD (R176): VF is the carry; `V[X]` is the sum modulo 256. That with `X = 15` the flag wins is the spec's
decision D11 on its conflict C2 (R183; log entry 13). -/
def Obligations.AddSetsCarry : Prop :=
  (∀ x y : Reg, decodeWord (word4 0x8 x y 0x4) = some (.add x y)) ∧
  ∀ (x y : Reg) (s : State), ∃ t, exec (.add x y) s = .next t ∧
    (x ≠ 15 → (t.getV x).toNat = ((s.getV x).toNat + (s.getV y).toNat) % 256) ∧
    (t.getV 15).toNat = (if (s.getV x).toNat + (s.getV y).toNat > 255 then 1 else 0) ∧
    SameRegsBut (fun r => r = x ∨ r = 15) s t ∧ NextPc s t ∧ OnlyRegsAndPc s t

/-- SUB (R177): VF is 1 exactly when no borrow occurred; the difference modulo 256, stated on integers. `X = 15`
follows D11 (R183; log entry 13). -/
def Obligations.SubSetsNotBorrow : Prop :=
  (∀ x y : Reg, decodeWord (word4 0x8 x y 0x5) = some (.sub x y)) ∧
  ∀ (x y : Reg) (s : State), ∃ t, exec (.sub x y) s = .next t ∧
    (x ≠ 15 → ((t.getV x).toNat : Int) = (((s.getV x).toNat : Int) - ((s.getV y).toNat : Int)) % 256) ∧
    (t.getV 15).toNat = (if (s.getV x).toNat ≥ (s.getV y).toNat then 1 else 0) ∧
    SameRegsBut (fun r => r = x ∨ r = 15) s t ∧ NextPc s t ∧ OnlyRegsAndPc s t

/-- SUBN (R179): the operands the other way round. `X = 15` follows D11 (R183; log entry 13). -/
def Obligations.SubnSetsNotBorrow : Prop :=
  (∀ x y : Reg, decodeWord (word4 0x8 x y 0x7) = some (.subn x y)) ∧
  ∀ (x y : Reg) (s : State), ∃ t, exec (.subn x y) s = .next t ∧
    (x ≠ 15 → ((t.getV x).toNat : Int) = (((s.getV y).toNat : Int) - ((s.getV x).toNat : Int)) % 256) ∧
    (t.getV 15).toNat = (if (s.getV y).toNat ≥ (s.getV x).toNat then 1 else 0) ∧
    SameRegsBut (fun r => r = x ∨ r = 15) s t ∧ NextPc s t ∧ OnlyRegsAndPc s t

/-- SHR (R178) and SHL (R180): halved, or doubled modulo 256; VF is the bit shifted out; the encoded `Y` is
ignored. `X = 15` follows D11 (R183; log entry 13). -/
def Obligations.ShiftsByOneBit : Prop :=
  (∀ x y : Reg, decodeWord (word4 0x8 x y 0x6) = some (.shr x) ∧
    decodeWord (word4 0x8 x y 0xE) = some (.shl x)) ∧
  ∀ (x : Reg) (s : State),
    (∃ t, exec (.shr x) s = .next t ∧
      (x ≠ 15 → (t.getV x).toNat = (s.getV x).toNat / 2) ∧
      (t.getV 15).toNat = (s.getV x).toNat % 2 ∧
      SameRegsBut (fun r => r = x ∨ r = 15) s t ∧ NextPc s t ∧ OnlyRegsAndPc s t) ∧
    ∃ t, exec (.shl x) s = .next t ∧
      (x ≠ 15 → (t.getV x).toNat = 2 * (s.getV x).toNat % 256) ∧
      (t.getV 15).toNat = (s.getV x).toNat / 128 ∧
      SameRegsBut (fun r => r = x ∨ r = 15) s t ∧ NextPc s t ∧ OnlyRegsAndPc s t

/-- RND (R181, R275; D18): the byte the host offers in this cycle, whatever it is, masked bit by bit. -/
def Obligations.RandomByteIsMasked : Prop :=
  (∀ (x : Reg) (kk : Byte), decodeWord (wordXKK 0xC x kk) = some (.rnd x kk)) ∧
  ∀ (x : Reg) (kk : Byte) (s : State), ∃ t, exec (.rnd x kk) s = .next t ∧
    (∀ b, (t.getV x).getLsbD b = (s.input.rnd.getLsbD b && kk.getLsbD b)) ∧
    SameRegsBut (· = x) s t ∧ NextPc s t ∧ OnlyRegsAndPc s t

/-! ## Control transfer and skips -/

/-- JP (R151) and LD_V0 (R157): the target, not checked, not reduced; a JP to its own address leaves `PC` where
it was. A target from which two bytes do not fit in `MEM_SIZE` faults at the next fetch (R63, R158; 4094 and
above with the 4095 of the spec's decision D1; log entry 4). -/
def Obligations.JumpsSetPc : Prop :=
  (∀ nnn : Addr12, decodeWord (wordNNN 0x1 nnn) = some (.jp nnn) ∧
    decodeWord (wordNNN 0xB nnn) = some (.ldV0 nnn)) ∧
  ∀ (nnn : Addr12) (s : State),
    (∃ t, exec (.jp nnn) s = .next t ∧ t.pc.toNat = nnn.toNat ∧ (s.pc.toNat = nnn.toNat → t.pc = s.pc) ∧
      SameRegs s t ∧ OnlyRegsAndPc s t ∧
      (s.fault = none → s.run = true → nnn.toNat + 2 > s.memSize →
        ∃ u, step t = .next u ∧ u.fault = some ⟨.outOfBounds .fetch, nnn.setWidth 16⟩)) ∧
    ∃ t, exec (.ldV0 nnn) s = .next t ∧ t.pc.toNat = nnn.toNat + (s.getV 0).toNat ∧ SameRegs s t ∧
      OnlyRegsAndPc s t ∧
      (s.fault = none → s.run = true → nnn.toNat + (s.getV 0).toNat + 2 > s.memSize →
        ∃ u, step t = .next u ∧ u.fault = some ⟨.outOfBounds .fetch, t.pc⟩)

/-- CALL (R152, R29): with room on the stack the address after the CALL is pushed and `PC` is `nnn`; on a
full stack `StackOverflow` is raised and nothing is pushed. The stack's length is part of the invariant. What
a raised error leaves is D10 (R129; log entry 22). -/
def Obligations.CallPushesReturnAddress : Prop :=
  (∀ nnn : Addr12, decodeWord (wordNNN 0x2 nnn) = some (.call nnn)) ∧
  ∀ (nnn : Addr12) (s : State),
    (s.sp < s.stackCapacity → s.stack.length = s.stackCapacity →
      ∃ t, exec (.call nnn) s = .next t ∧ t.pc.toNat = nnn.toNat ∧ t.sp = s.sp + 1 ∧
        t.stackEntry s.sp = s.pc + 2 ∧ (∀ k, k ≠ s.sp → t.stackEntry k = s.stackEntry k) ∧
        t.stack.length = s.stack.length ∧ SameRegs s t ∧ t.i = s.i ∧ SameMem s t ∧ SameFb s t ∧
        t.fault = s.fault ∧ t.events = s.events ∧ TimersStepped s t ∧ CycleTaken s t) ∧
    (s.sp = s.stackCapacity →
      ∃ t, exec (.call nnn) s = .next t ∧ RaisedOnly ⟨.stackOverflow, nnn.setWidth 16⟩ s t)

/-- RET (R150, R30): the newest return address, all 16 bits of it, which stays as a dead value
(log entry 18); on an empty stack `StackUnderflow`, which leaves what D10 says (R129; log entry 22). -/
def Obligations.ReturnPopsNewestAddress : Prop :=
  (∀ n : Nibble, decodeWord (word4 0x0 n 0xE 0xE) = some .ret) ∧
  ∀ s : State,
    (s.sp ≠ 0 →
      ∃ t, exec .ret s = .next t ∧ t.pc = s.stackEntry (s.sp - 1) ∧ t.sp = s.sp - 1 ∧
        t.stack = s.stack ∧ SameRegs s t ∧ t.i = s.i ∧ SameMem s t ∧ SameFb s t ∧ t.fault = s.fault ∧
        t.events = s.events ∧ TimersStepped s t ∧ CycleTaken s t) ∧
    (s.sp = 0 → ∃ t, exec .ret s = .next t ∧ RaisedOnly ⟨.stackUnderflow, 0⟩ s t)

/-- "CALL then RET returns PC to the instruction immediately after CALL" (R152), with anything in between that
leaves the stack alone, and the stack is as deep as before. -/
def Obligations.CallThenReturn : Prop :=
  ∀ (nnn : Addr12) (s : State), s.sp < s.stackCapacity → s.stack.length = s.stackCapacity →
    ∃ t, exec (.call nnn) s = .next t ∧
      ∀ u : State, u.stack = t.stack → u.sp = t.sp →
        ∃ w, exec .ret u = .next w ∧ w.pc = s.pc + 2 ∧ w.sp = s.sp

/-- SE_BYTE (R153) and SNE_BYTE (R154): exactly 2 more, all of it modulo 2^16, and no register changes. The
two conditions are the spec's general knowledge (G5, log entry 12). -/
def Obligations.SkipsOnByte : Prop :=
  (∀ (x : Reg) (kk : Byte), decodeWord (wordXKK 0x3 x kk) = some (.seByte x kk) ∧
    decodeWord (wordXKK 0x4 x kk) = some (.sneByte x kk)) ∧
  ∀ (x : Reg) (kk : Byte) (s : State),
    (∃ t, exec (.seByte x kk) s = .next t ∧
      t.pc.toNat = (s.pc.toNat + if (s.getV x).toNat = kk.toNat then 4 else 2) % 65536 ∧ SameRegs s t ∧
      OnlyRegsAndPc s t) ∧
    ∃ t, exec (.sneByte x kk) s = .next t ∧
      t.pc.toNat = (s.pc.toNat + if (s.getV x).toNat = kk.toNat then 2 else 4) % 65536 ∧ SameRegs s t ∧
      OnlyRegsAndPc s t

/-- SE_REG (R155) and SNE_REG (R156), with every value of the ignored nibble (G5, log entry 12). -/
def Obligations.SkipsOnRegister : Prop :=
  (∀ x y n : Nibble, decodeWord (word4 0x5 x y n) = some (.seReg x y) ∧
    decodeWord (word4 0x9 x y n) = some (.sneReg x y)) ∧
  ∀ (x y : Reg) (s : State),
    (∃ t, exec (.seReg x y) s = .next t ∧
      t.pc.toNat = (s.pc.toNat + if (s.getV x).toNat = (s.getV y).toNat then 4 else 2) % 65536 ∧
      SameRegs s t ∧ OnlyRegsAndPc s t) ∧
    ∃ t, exec (.sneReg x y) s = .next t ∧
      t.pc.toNat = (s.pc.toNat + if (s.getV x).toNat = (s.getV y).toNat then 2 else 4) % 65536 ∧
      SameRegs s t ∧ OnlyRegsAndPc s t

/-! ## Index register and memory -/

/-- LD_I (R200). -/
def Obligations.LoadIndex : Prop :=
  (∀ nnn : Addr12, decodeWord (wordNNN 0xA nnn) = some (.ldI nnn)) ∧
  ∀ (nnn : Addr12) (s : State), ∃ t, exec (.ldI nnn) s = .next t ∧ t.i.toNat = nnn.toNat ∧
    SameRegs s t ∧ NextPc s t ∧ SameMem s t ∧ SameFb s t ∧ SameStack s t ∧ t.fault = s.fault ∧
    t.events = s.events ∧ TimersStepped s t ∧ CycleTaken s t

/-- ADD_I_VX (R201; that the sum wraps is the spec's decision D22): no register changes, VF among them. -/
def Obligations.AddToIndexWraps : Prop :=
  (∀ x : Reg, decodeWord (wordXKK 0xF x 0x1E) = some (.addIVx x)) ∧
  ∀ (x : Reg) (s : State), ∃ t, exec (.addIVx x) s = .next t ∧
    t.i.toNat = (s.i.toNat + (s.getV x).toNat) % 65536 ∧ SameRegs s t ∧ NextPc s t ∧ SameMem s t ∧
    SameFb s t ∧ SameStack s t ∧ t.fault = s.fault ∧ t.events = s.events ∧ TimersStepped s t ∧
    CycleTaken s t

/-- LD_F_VX (R202, R67): five times the digit; a digit above 15 raises (the spec's decision D15). -/
def Obligations.FontAddressOfDigit : Prop :=
  (∀ x : Reg, decodeWord (wordXKK 0xF x 0x29) = some (.ldFVx x)) ∧
  ∀ (x : Reg) (s : State),
    ((s.getV x).toNat ≤ 15 →
      ∃ t, exec (.ldFVx x) s = .next t ∧ t.i.toNat = 5 * (s.getV x).toNat ∧ SameRegs s t ∧ NextPc s t ∧
        SameMem s t ∧ SameFb s t ∧ SameStack s t ∧ t.fault = s.fault ∧ t.events = s.events ∧
        TimersStepped s t ∧ CycleTaken s t) ∧
    ((s.getV x).toNat > 15 →
      ∃ t, exec (.ldFVx x) s = .next t ∧
        RaisedOnly ⟨.outOfBounds .fontDigit, (s.getV x).setWidth 16⟩ s t)

/-- LD_B_VX (R203): three decimal digits, hundreds at `I`, that make up the register again; every other
address reads as before; the whole range is checked first, so nothing is stored when it does not fit. The
bound is the memory size of D1 and the predicate of D2 (R62; log entry 4). -/
def Obligations.DecimalDigitsStored : Prop :=
  (∀ x : Reg, decodeWord (wordXKK 0xF x 0x33) = some (.ldBVx x)) ∧
  ∀ (x : Reg) (s : State),
    (s.memWf = true → s.i.toNat + 3 ≤ s.memSize →
      ∃ t, exec (.ldBVx x) s = .next t ∧
        (∃ h d u : Nat, (s.getV x).toNat = 100 * h + 10 * d + u ∧ h ≤ 2 ∧ d ≤ 9 ∧ u ≤ 9 ∧
          (t.readMem s.i.toNat).toNat = h ∧ (t.readMem (s.i.toNat + 1)).toNat = d ∧
          (t.readMem (s.i.toNat + 2)).toNat = u) ∧
        (∀ a, ¬ (s.i.toNat ≤ a ∧ a < s.i.toNat + 3) → t.readMem a = s.readMem a) ∧
        SameRegs s t ∧ t.i = s.i ∧ NextPc s t ∧ SameFb s t ∧ SameStack s t ∧ t.fault = s.fault ∧
        t.events = s.events ∧ TimersStepped s t ∧ CycleTaken s t) ∧
    (s.i.toNat + 3 > s.memSize →
      ∃ t, exec (.ldBVx x) s = .next t ∧ RaisedOnly ⟨.outOfBounds .data, s.i⟩ s t)

/-- LD_I_VX (R204; the inclusive range and the unmoved `I` are D12): `V[r]` at `I + r` for every `r` up to
`X`; every other address reads as before; nothing is stored when the range does not fit. -/
def Obligations.RegistersStored : Prop :=
  (∀ x : Reg, decodeWord (wordXKK 0xF x 0x55) = some (.ldIVx x)) ∧
  ∀ (x : Reg) (s : State),
    (s.memWf = true → s.i.toNat + x.toNat + 1 ≤ s.memSize →
      ∃ t, exec (.ldIVx x) s = .next t ∧
        (∀ r : Reg, r.toNat ≤ x.toNat → t.readMem (s.i.toNat + r.toNat) = s.getV r) ∧
        (∀ a, ¬ (s.i.toNat ≤ a ∧ a < s.i.toNat + (x.toNat + 1)) →
          t.readMem a = s.readMem a) ∧
        SameRegs s t ∧ t.i = s.i ∧ NextPc s t ∧ SameFb s t ∧ SameStack s t ∧ t.fault = s.fault ∧
        t.events = s.events ∧ TimersStepped s t ∧ CycleTaken s t) ∧
    (s.i.toNat + x.toNat + 1 > s.memSize →
      ∃ t, exec (.ldIVx x) s = .next t ∧ RaisedOnly ⟨.outOfBounds .data, s.i⟩ s t)

/-- LD_VX_I (R205): the inverse, the same inclusive range (D12; log entry 14); registers above `X` keep their
value, and nothing is loaded when the range does not fit (D1, D2; log entry 4). -/
def Obligations.RegistersLoaded : Prop :=
  (∀ x : Reg, decodeWord (wordXKK 0xF x 0x65) = some (.ldVxI x)) ∧
  ∀ (x : Reg) (s : State),
    (s.i.toNat + x.toNat + 1 ≤ s.memSize →
      ∃ t, exec (.ldVxI x) s = .next t ∧
        (∀ r : Reg, r.toNat ≤ x.toNat → t.getV r = s.readMem (s.i.toNat + r.toNat)) ∧
        SameRegsBut (fun r => r.toNat ≤ x.toNat) s t ∧ NextPc s t ∧ OnlyRegsAndPc s t) ∧
    (s.i.toNat + x.toNat + 1 > s.memSize →
      ∃ t, exec (.ldVxI x) s = .next t ∧ RaisedOnly ⟨.outOfBounds .data, s.i⟩ s t)

/-- "LD_I_VX(X) followed by LD_VX_I(X) restores V0..VX" (R205) from any state in between that kept memory and
`I`, whatever its registers hold, on the same block (R204; D12). -/
def Obligations.StoreThenLoadRestoresRegisters : Prop :=
  ∀ (x : Reg) (s : State), s.memWf = true → s.i.toNat + x.toNat + 1 ≤ s.memSize →
    ∃ t, exec (.ldIVx x) s = .next t ∧
      ∀ u : State, u.params = t.params → u.mem = t.mem → u.i = t.i →
        ∃ w, exec (.ldVxI x) u = .next w ∧ ∀ r : Reg, r.toNat ≤ x.toNat → w.getV r = s.getV r

/-! ## Display -/

/-- CLS (R220; its event is D29): every byte zero, margin included, no pixel lit, VF unchanged; `n1` is
ignored. -/
def Obligations.ClearEmptiesDisplay : Prop :=
  (∀ n : Nibble, decodeWord (word4 0x0 n 0xE 0x0) = some .cls) ∧
  ∀ s : State, ∃ t, exec .cls s = .next t ∧ (∀ r c, FrameBuffer.byteAt t.fb r c = 0) ∧
    (∀ p r, t.pixelLit p r = false) ∧ t.events = .presentClear :: s.events ∧ SameRegs s t ∧ t.i = s.i ∧
    NextPc s t ∧ SameMem s t ∧ SameStack s t ∧ t.fault = s.fault ∧ TimersStepped s t ∧ CycleTaken s t

/-- DRW that completes (R221, R222, R223; edges and margin are D13, `N = 0` is D14): every internal pixel is
XORed with the sprite, VF is 1 exactly when a set sprite bit landed on a set pixel, margin included, and
nothing else changes; with `N = 0` it completes for every coordinate. -/
def Obligations.DrawXorsPixels : Prop :=
  (∀ x y n : Nibble, decodeWord (word4 0xD x y n) = some (.drw x y n)) ∧
  ∀ (x y : Reg) (n : Nibble) (s : State), s.i.toNat + n.toNat ≤ s.memSize →
    (n.toNat = 0 ∨ ((s.getV x).toNat ≤ 63 ∧ (s.getV y).toNat + n.toNat ≤ 36)) →
    ∃ t, exec (.drw x y n) s = .next t ∧
      (∀ p q, FrameBuffer.pixel t.fb p q =
        (FrameBuffer.pixel s.fb p q !=
          spriteBitAt s (s.getV x).toNat (s.getV y).toNat n.toNat p q)) ∧
      (t.getV 15 = 0 ∨ t.getV 15 = 1) ∧
      (t.getV 15 = 1 ↔ ∃ p q, FrameBuffer.pixel s.fb p q = true ∧
        spriteBitAt s (s.getV x).toNat (s.getV y).toNat n.toNat p q = true) ∧
      SameRegsBut (· = 15) s t ∧ t.i = s.i ∧ NextPc s t ∧ SameMem s t ∧ SameStack s t ∧
      t.fault = s.fault ∧ t.events = .presentDraw :: s.events ∧ TimersStepped s t ∧ CycleTaken s t

/-- DRW that raises (R221, R224, R263; D13, D30): the sprite range first, recording `I`, then the display
bounds, recording `y` in the high byte and `x` in the low; nothing is drawn and VF is not written. The sprite
bound is the predicate of D2 on the parameter `MEM_SIZE` of D1 (R62; log entry 4), the display bound is log
entry 15, and what a raised error leaves is D10 (R129; log entry 22). -/
def Obligations.DrawOutOfBoundsRaises : Prop :=
  ∀ (x y : Reg) (n : Nibble) (s : State),
    (s.i.toNat + n.toNat > s.memSize →
      ∃ t, exec (.drw x y n) s = .next t ∧ RaisedOnly ⟨.outOfBounds .sprite, s.i⟩ s t) ∧
    (s.i.toNat + n.toNat ≤ s.memSize → 1 ≤ n.toNat →
      ((s.getV x).toNat > 63 ∨ (s.getV y).toNat + n.toNat > 36) →
      ∃ t, exec (.drw x y n) s = .next t ∧
        RaisedOnly ⟨.outOfBounds .display,
          BitVec.ofNat 16 (256 * (s.getV y).toNat + (s.getV x).toNat)⟩ s t)

/-- "XOR twice = identity" (the source's example, E4 of 95_test_vectors.md; R222, R223): the same sprite drawn
again at the same place restores the buffer, and collides if it has a set bit and did not collide before. -/
def Obligations.DrawTwiceRestores : Prop :=
  ∀ (x y : Reg) (n : Nibble) (s : State), x ≠ 15 → y ≠ 15 → s.i.toNat + n.toNat ≤ s.memSize →
    (s.getV x).toNat ≤ 63 → (s.getV y).toNat + n.toNat ≤ 36 →
    ∃ t w, exec (.drw x y n) s = .next t ∧ exec (.drw x y n) t = .next w ∧ SameFb s w ∧
      (t.getV 15 = 0 → (∃ k, k < n.toNat ∧ s.readMem (s.i.toNat + k) ≠ 0) → w.getV 15 = 1)

/-! ## Keypad and timers -/

/-- SKP (R240) and SKNP (R241): the level of the key `V[X]` in this cycle; a number above 15 raises (the
spec's decision D16); which of the two skips on "down" is the spec's general knowledge (G6, log 12). -/
def Obligations.SkipsOnKey : Prop :=
  (∀ x : Reg, decodeWord (wordXKK 0xE x 0x9E) = some (.skp x) ∧
    decodeWord (wordXKK 0xE x 0xA1) = some (.sknp x)) ∧
  ∀ (x : Reg) (s : State),
    ((s.getV x).toNat ≤ 15 →
      (∃ t, exec (.skp x) s = .next t ∧
        t.pc.toNat = (s.pc.toNat + if s.input.keys.getLsbD (s.getV x).toNat then 4 else 2) % 65536 ∧
        SameRegs s t ∧ OnlyRegsAndPc s t) ∧
      ∃ t, exec (.sknp x) s = .next t ∧
        t.pc.toNat = (s.pc.toNat + if s.input.keys.getLsbD (s.getV x).toNat then 2 else 4) % 65536 ∧
        SameRegs s t ∧ OnlyRegsAndPc s t) ∧
    ((s.getV x).toNat > 15 →
      (∃ t, exec (.skp x) s = .next t ∧
        RaisedOnly ⟨.outOfBounds .keyIndex, (s.getV x).setWidth 16⟩ s t) ∧
      ∃ t, exec (.sknp x) s = .next t ∧
        RaisedOnly ⟨.outOfBounds .keyIndex, (s.getV x).setWidth 16⟩ s t)

/-- LD_VX_DT (R242; its direction is read from the name, G7): `DT` as it was before this cycle's decrement. -/
def Obligations.ReadDelayTimer : Prop :=
  (∀ x : Reg, decodeWord (wordXKK 0xF x 0x07) = some (.ldVxDt x)) ∧
  ∀ (x : Reg) (s : State), ∃ t, exec (.ldVxDt x) s = .next t ∧ t.getV x = s.dt ∧
    SameRegsBut (· = x) s t ∧ NextPc s t ∧ OnlyRegsAndPc s t

/-- LD_DT_VX (R244) and LD_ST_VX (R245): at the next boundary the timer is `max(V[X] - 1, 0)`, since the timer
unit runs after execute; the other timer just steps. The direction of the two is read from their names (G7;
log entry 12). -/
def Obligations.LoadTimers : Prop :=
  (∀ x : Reg, decodeWord (wordXKK 0xF x 0x15) = some (.ldDtVx x) ∧
    decodeWord (wordXKK 0xF x 0x18) = some (.ldStVx x)) ∧
  ∀ (x : Reg) (s : State),
    (∃ t, exec (.ldDtVx x) s = .next t ∧ t.dt.toNat = (s.getV x).toNat - 1 ∧
      t.st.toNat = s.st.toNat - 1 ∧ SameRegs s t ∧ t.i = s.i ∧ NextPc s t ∧ SameMem s t ∧ SameFb s t ∧
      SameStack s t ∧ t.fault = s.fault ∧ t.events = s.events ∧ CycleTaken s t) ∧
    ∃ t, exec (.ldStVx x) s = .next t ∧ t.st.toNat = (s.getV x).toNat - 1 ∧
      t.dt.toNat = s.dt.toNat - 1 ∧ SameRegs s t ∧ t.i = s.i ∧ NextPc s t ∧ SameMem s t ∧ SameFb s t ∧
      SameStack s t ∧ t.fault = s.fault ∧ t.events = s.events ∧ CycleTaken s t

/-- W_KEY with a key reported (R243; D17): the code, zero-extended, whichever key it is. -/
def Obligations.KeyWaitCompletes : Prop :=
  (∀ x : Reg, decodeWord (wordXKK 0xF x 0x0A) = some (.wKey x)) ∧
  ∀ (x : Reg) (k : Nibble) (s : State), s.input.keyReport = some k →
    ∃ t, exec (.wKey x) s = .next t ∧ (t.getV x).toNat = k.toNat ∧ SameRegsBut (· = x) s t ∧
      NextPc s t ∧ OnlyRegsAndPc s t

/-- W_KEY with no key reported (R127, R243; D17): nothing of the block changes, `PC` and timers included, and
the cycle stays in progress, so that the next step attempts the same instruction with the next inputs
(log entry 10). -/
def Obligations.KeyWaitHolds : Prop :=
  ∀ (x : Reg) (s : State), s.input.keyReport = none →
    ∃ t, exec (.wKey x) s = .next t ∧ SameBlock s t ∧ t.events = s.events ∧ CycleHeld s t

/-- `waiting_key` shows exactly the hold (R276, R127): while it is asserted a step changes nothing of the block
and leaves the cycle in progress, and a W_KEY at `PC` with the output not asserted completes and ends it. That
the held cycle is a step that answers a next state, where R127 takes no step, is the model's choice
(log entry 10). Which key is written is KeyWaitCompletes. -/
def Obligations.WaitingKeyShowsTheHold : Prop :=
  ∀ s : State, s.fault = none → s.active = true →
    (s.waitingKey = true → ∃ t, step s = .next t ∧ SameBlock s t ∧ CycleHeld s t) ∧
    (∀ x, s.pc.toNat + 2 ≤ s.memSize → decodeWord s.wordAtPc = some (.wKey x) → s.waitingKey = false →
      ∃ t, step s = .next t ∧ NextPc s t ∧ CycleTaken s t ∧ ∃ k : Nibble, (t.getV x).toNat = k.toNat)

/-- A cycle that W_KEY holds is not abandoned when the host drops the run gate (R128; D23): whatever the gate
is, a key report completes it and no report leaves it in progress, and `waiting_key` does not change with the
gate; with the gate dropped the block is paused at the boundary that the completed cycle reaches. Reset ends it
without a key (R300). That an attempt is a step, and the flag of a cycle in progress, are log entry 10. -/
def Obligations.HeldCycleOutlivesRunGate : Prop :=
  ∀ (s : State) (x : Reg), s.fault = none → s.holding = true → s.pc.toNat + 2 ≤ s.memSize →
    decodeWord s.wordAtPc = some (.wKey x) →
    (∀ k, s.input.keyReport = some k →
      ∃ t, step s = .next t ∧ (t.getV x).toNat = k.toNat ∧ SameRegsBut (· = x) s t ∧ NextPc s t ∧
        OnlyRegsAndPc s t ∧ (s.run = false → step t = .next t)) ∧
    (s.input.keyReport = none → ∃ t, step s = .next t ∧ SameBlock s t ∧ CycleHeld s t) ∧
    (∀ b, (s.setRun b).waitingKey = s.input.keyReport.isNone) ∧ s.assertReset.holding = false

/-! ## The whole machine -/

/-- Every step keeps the invariant of the block, from every state that meets it: memory canonical, the stack
within its capacity (R28), `PC` and the return addresses within the bounds that R24 derives, and a cycle in
progress only where the word at `PC` is a W_KEY (R127; log entry 10). -/
def Obligations.EveryStepKeepsInvariant : Prop :=
  ∀ s t : State, s.Inv → step s = .next t → t.Inv

/-- The state after reset meets the invariant, for every choice of the parameters. -/
def Obligations.ResetMeetsInvariant : Prop :=
  State.reset.Inv ∧ ∀ p, (State.resetWith p).Inv

/-- Faults are precise (R264, R129; D8, D10): a cycle of any instruction that latches a fault has changed
nothing else but `PC`, advanced by its fetch. -/
def Obligations.FaultsArePrecise : Prop :=
  ∀ (i : Instr) (s t : State) (f : FaultRecord), s.fault = none → exec i s = .next t →
    t.fault = some f → RaisedOnly f s t

/-- What a cycle raises, and what it records, is exactly what the tables of R261 and R262 say, in the order
of R263, for every word. The records are D8, the bounds of fetch, data and sprite are D1 and D2 (R62; log
entry 4), those of the display D13, of digits and keys D15 and D16, and the order D30. -/
def Obligations.FaultCausesExactly : Prop :=
  ∀ s t : State, s.fault = none → s.active = true → s.sp ≤ s.stackCapacity → step s = .next t →
    t.fault = causeOfCycle s

/-- An instruction writes no register but its field `X`, the range of LD_VX_I, and VF for the six that write
it as a flag (R21, R22). -/
def Obligations.OnlyNamedRegistersChange : Prop :=
  ∀ (i : Instr) (s t : State) (r : Reg), exec i s = .next t → mayWriteReg r i = false →
    t.getV r = s.getV r

/-- The six flag writers leave 0x00 or 0x01 in VF whenever they complete (R22), even with `X = 15`. -/
def Obligations.FlagIsZeroOrOne : Prop :=
  ∀ (i : Instr) (s t : State), s.fault = none → writesFlag i = true → exec i s = .next t →
    t.fault = none → t.getV 15 = 0 ∨ t.getV 15 = 1

/-- Who writes what (R23, R24, R27, R32, R60): memory only LD_B_VX and LD_I_VX, the display only CLS and DRW,
the stack only CALL and RET, `I` only LD_I, ADD_I_VX and LD_F_VX; every other instruction but transfers,
skips and a held W_KEY moves `PC` by 2; no instruction changes a parameter or the run gate. -/
def Obligations.OnlyOwnersWriteState : Prop :=
  ∀ (i : Instr) (s t : State), exec i s = .next t →
    (storesMemory i = false → t.mem = s.mem) ∧ (writesDisplay i = false → t.fb = s.fb) ∧
    (usesStack i = false → SameStack s t) ∧ (writesIndex i = false → t.i = s.i) ∧
    (movesPc i = false → t.pc = s.pc + 2) ∧ t.params = s.params ∧ t.run = s.run

/-- The timers step once in every cycle that completes and in no other (R124, R269; D10): neither in one that
raises nor while W_KEY holds. The two timer loads have a statement of their own. -/
def Obligations.TimersStepOncePerCompletedCycle : Prop :=
  ∀ (i : Instr) (s t : State), s.fault = none → exec i s = .next t →
    (∀ x, i ≠ .ldDtVx x) → (∀ x, i ≠ .ldStVx x) →
    if t.fault.isSome = true ∨ (∃ x, i = .wKey x ∧ s.input.keyReport = none) then SameTimers s t
    else TimersStepped s t

/-- The host's inputs reach the block only through RND, SKP, SKNP and W_KEY (R36, R181, R240, R241, R243,
R274, R275): two blocks that agree agree after any other instruction, whatever their inputs, and after
these four too if the ports show the same in that cycle. -/
def Obligations.InputsReachOnlyFourInstructions : Prop :=
  ∀ (i : Instr) (s u t w : State), SameBlock s u → s.params = u.params →
    exec i s = .next t → exec i u = .next w →
    (samplesInput i = false ∨ s.input = u.input) → SameBlock t w

/-- The unknown-opcode policy is seen by SYS alone among the instructions (R125, R126; D5). -/
def Obligations.PolicyReachesOnlySys : Prop :=
  ∀ (i : Instr) (s t w : State) (p : Config.UnknownPolicy), (∀ nnn, i ≠ .sys nnn) →
    exec i s = .next t → exec i { s with params := { s.params with unknownOpcode := p } } = .next w →
    SameBlock t w

/-- One event per completed CLS, completed DRW and skipped SYS word, none from any other instruction and none
from a DRW that raises (R273, R278; D29). -/
def Obligations.EventsOfACycle : Prop :=
  ∀ (i : Instr) (s t : State), s.fault = none → exec i s = .next t →
    t.events = eventsOf s.params t.fault.isSome i ++ s.events

/-- In canonical form, for any font and size, memories that read the same at every address are the same list:
equal memories are equal data. -/
def Obligations.CanonicalMemoriesAreEqual : Prop :=
  ∀ (f : Config.Font) (size : Nat) (m m' : Memory), Memory.wf f size m = true → Memory.wf f size m' = true →
    (∀ a, Memory.read f m a = Memory.read f m' a) → m = m'

/-! ## Reset and boot -/

/-- Asserting reset (R300, R37; the values other than `PC` are the spec's decision D4): every piece of state
takes its reset value from any state, a faulted or a held one too; memory is the parameter `FONT` at 0x000 to
0x04F and zero from 0x050 on. By default `MEM_SIZE` is 4095 (D1; log entry 4) and `FONT` is the table of R66,
shown at glyph A (D20; log entry 3). -/
def Obligations.ResetValues : Prop :=
  (∀ s : State,
    (∀ r, s.assertReset.getV r = 0) ∧ s.assertReset.i = 0 ∧ s.assertReset.pc = 0x200 ∧
    s.assertReset.dt = 0 ∧ s.assertReset.st = 0 ∧ s.assertReset.sp = 0 ∧
    s.assertReset.stack.length = s.stackCapacity ∧ (∀ k, s.assertReset.stackEntry k = 0) ∧
    (∀ r c, FrameBuffer.byteAt s.assertReset.fb r c = 0) ∧ s.assertReset.fault = none ∧
    s.assertReset.holding = false ∧ s.assertReset.params = s.params ∧
    (∀ (a : Nat) (h : a < 80), s.assertReset.readMem a = s.params.font[a]'h) ∧
    (∀ a, 0x50 ≤ a → s.assertReset.readMem a = 0) ∧
    SameBlock State.reset (State.assertReset { s with params := State.reset.params })) ∧
  State.reset.memSize = 4095 ∧ State.reset.readBytes 0x32 5 = [0xF0, 0x90, 0xF0, 0x90, 0x90]

/-- The loader's write access (R276, R302, R72): while the block is stopped, with no cycle in progress, bytes
that memory reaches are stored and everything else is kept, a latched fault too; while the gate is asserted or
W_KEY holds, or where memory does not reach, nothing is written (log entry 21).
The boot order (R302, R76; D25), from any state of the block: byte `j` of an image that fits is at
`0x200 + j`, every other address reads its reset content, every other piece of state has its reset value, the
first fetch is at 0x200 with no fault latched and the gate asserted; a longer image is refused. What fits is
3583 bytes with the default `MEM_SIZE` (R7; D1; log entry 4). -/
def Obligations.BootPlacesTheImage : Prop :=
  (∀ (s : State) (a : Nat) (bytes : List Byte),
    (s.memWf = true → s.run = false → s.holding = false → a + bytes.length ≤ s.memSize →
      ∃ t, s.loaderWrite a bytes = some t ∧
        (∀ j, j < bytes.length → t.readMem (a + j) = bytes.getD j 0) ∧
        (∀ b, ¬ (a ≤ b ∧ b < a + bytes.length) → t.readMem b = s.readMem b) ∧
        t.memWf = true ∧ t = { s with mem := t.mem }) ∧
    (s.run = true ∨ s.holding = true ∨ a + bytes.length > s.memSize → s.loaderWrite a bytes = none)) ∧
  (∀ (s : State) (image : List Byte),
    (image.length ≤ maxProgBytes s.params.memSize →
      ∃ t, s.boot image = some t ∧
        (∀ j, j < image.length → t.readMem (0x200 + j) = image.getD j 0) ∧
        (∀ a, ¬ (0x200 ≤ a ∧ a < 0x200 + image.length) → t.readMem a = s.assertReset.readMem a) ∧
        SameBlock { s.assertReset with mem := t.mem } t ∧
        t.pc = 0x200 ∧ t.fault = none ∧ t.run = true ∧ t.holding = false ∧ t.params = s.params ∧ t.Inv) ∧
    (maxProgBytes s.params.memSize < image.length → s.boot image = none)) ∧
  maxProgBytes State.reset.params.memSize = 3583
end

