-- ==== Sys2Proof/Laws/Decode.lean ====
section
/-! SUPPORT. The fields of the words the encoder builds, and what the dispatch table selects. -/

namespace Sys2Proof

/-! ## Words and fields as numbers -/

/-- Joining by shift and OR is positional notation when the low part fits under the shift. -/
theorem shiftLeft_or_toNat (a b k : Nat) (h : b < 2 ^ k) : a <<< k ||| b = a * 2 ^ k + b := by
  rw [← Nat.shiftLeft_add_eq_or_of_lt h, Nat.shiftLeft_eq]

theorem toNat_word4 (a b c d : Nibble) :
    (word4 a b c d).toNat = 4096 * a.toNat + 256 * b.toNat + 16 * c.toNat + d.toNat := by
  have ha := a.isLt; have hb := b.isLt; have hc := c.isLt; have hd := d.isLt
  have e : (word4 a b c d).toNat =
      a.toNat <<< 12 ||| (b.toNat <<< 8 ||| (c.toNat <<< 4 ||| d.toNat)) := by
    simp only [word4, BitVec.toNat_or, BitVec.toNat_shiftLeft, BitVec.toNat_setWidth, Nat.lor_assoc]
    simp only [Nat.shiftLeft_eq]
    congr 1 <;> (try congr 1) <;> (try congr 1) <;> omega
  rw [e, shiftLeft_or_toNat c.toNat _ 4 (by omega), shiftLeft_or_toNat b.toNat _ 8 (by omega),
    shiftLeft_or_toNat a.toNat _ 12 (by omega)]
  omega

theorem toNat_wordXKK (a x : Nibble) (k : Byte) :
    (wordXKK a x k).toNat = 4096 * a.toNat + 256 * x.toNat + k.toNat := by
  have ha := a.isLt; have hx := x.isLt; have hk := k.isLt
  have e : (wordXKK a x k).toNat = a.toNat <<< 12 ||| (x.toNat <<< 8 ||| k.toNat) := by
    simp only [wordXKK, BitVec.toNat_or, BitVec.toNat_shiftLeft, BitVec.toNat_setWidth, Nat.lor_assoc]
    simp only [Nat.shiftLeft_eq]
    congr 1 <;> (try congr 1) <;> omega
  rw [e, shiftLeft_or_toNat x.toNat _ 8 (by omega), shiftLeft_or_toNat a.toNat _ 12 (by omega)]
  omega

theorem toNat_wordNNN (a : Nibble) (n : Addr12) : (wordNNN a n).toNat = 4096 * a.toNat + n.toNat := by
  have ha := a.isLt; have hn := n.isLt
  have e : (wordNNN a n).toNat = a.toNat <<< 12 ||| n.toNat := by
    simp only [wordNNN, BitVec.toNat_or, BitVec.toNat_shiftLeft, BitVec.toNat_setWidth]
    simp only [Nat.shiftLeft_eq]
    congr 1 <;> omega
  rw [e, shiftLeft_or_toNat a.toNat _ 12 (by omega)]
  omega

theorem toNat_wordOfBytes (h l : Byte) : (wordOfBytes h l).toNat = 256 * h.toNat + l.toNat := by
  have hh := h.isLt; have hl := l.isLt
  have e : (wordOfBytes h l).toNat = h.toNat <<< 8 ||| l.toNat := by
    simp only [wordOfBytes, BitVec.toNat_or, BitVec.toNat_shiftLeft, BitVec.toNat_setWidth]
    simp only [Nat.shiftLeft_eq]
    congr 1 <;> omega
  rw [e, shiftLeft_or_toNat h.toNat _ 8 (by omega)]
  omega

theorem toNat_nib0 (ir : Word) : (nib0 ir).toNat = ir.toNat / 4096 % 16 := by
  simp [nib0, Nat.shiftRight_eq_div_pow]

theorem toNat_nib1 (ir : Word) : (nib1 ir).toNat = ir.toNat / 256 % 16 := by
  simp [nib1, Nat.shiftRight_eq_div_pow]

theorem toNat_nib2 (ir : Word) : (nib2 ir).toNat = ir.toNat / 16 % 16 := by
  simp [nib2, Nat.shiftRight_eq_div_pow]

theorem toNat_nib3 (ir : Word) : (nib3 ir).toNat = ir.toNat % 16 := by
  simp [nib3]

theorem toNat_fieldKK (ir : Word) : (fieldKK ir).toNat = ir.toNat % 256 := by
  simp [fieldKK]

theorem toNat_fieldNNN (ir : Word) : (fieldNNN ir).toNat = ir.toNat % 4096 := by
  simp [fieldNNN]

theorem toNat_highByte (ir : Word) : (highByte ir).toNat = ir.toNat / 256 := by
  have := ir.isLt
  simp [highByte, Nat.shiftRight_eq_div_pow]
  omega

theorem toNat_lowByte (ir : Word) : (lowByte ir).toNat = ir.toNat % 256 := by
  simp [lowByte]

/-! ## Format NNN -/

@[simp] theorem nib0_wordNNN (a : Nibble) (n : Addr12) : nib0 (wordNNN a n) = a := by
  apply BitVec.eq_of_toNat_eq
  rw [toNat_nib0, toNat_wordNNN]
  have := a.isLt; have := n.isLt; omega

@[simp] theorem fieldNNN_wordNNN (a : Nibble) (n : Addr12) : fieldNNN (wordNNN a n) = n := by
  apply BitVec.eq_of_toNat_eq
  rw [toNat_fieldNNN, toNat_wordNNN]
  have := a.isLt; have := n.isLt; omega

/-! ## Formats XKK and XS -/

@[simp] theorem nib0_wordXKK (a x : Nibble) (k : Byte) : nib0 (wordXKK a x k) = a := by
  apply BitVec.eq_of_toNat_eq
  rw [toNat_nib0, toNat_wordXKK]
  have := a.isLt; have := x.isLt; have := k.isLt; omega

@[simp] theorem nib1_wordXKK (a x : Nibble) (k : Byte) : nib1 (wordXKK a x k) = x := by
  apply BitVec.eq_of_toNat_eq
  rw [toNat_nib1, toNat_wordXKK]
  have := a.isLt; have := x.isLt; have := k.isLt; omega

@[simp] theorem nib2_wordXKK (a x : Nibble) (k : Byte) : nib2 (wordXKK a x k) = k.extractLsb' 4 4 := by
  apply BitVec.eq_of_toNat_eq
  rw [toNat_nib2, toNat_wordXKK, BitVec.extractLsb'_toNat, Nat.shiftRight_eq_div_pow]
  have := a.isLt; have := x.isLt; have := k.isLt; omega

@[simp] theorem nib3_wordXKK (a x : Nibble) (k : Byte) : nib3 (wordXKK a x k) = k.extractLsb' 0 4 := by
  apply BitVec.eq_of_toNat_eq
  rw [toNat_nib3, toNat_wordXKK, BitVec.extractLsb'_toNat, Nat.shiftRight_eq_div_pow]
  have := a.isLt; have := x.isLt; have := k.isLt; omega

@[simp] theorem fieldKK_wordXKK (a x : Nibble) (k : Byte) : fieldKK (wordXKK a x k) = k := by
  apply BitVec.eq_of_toNat_eq
  rw [toNat_fieldKK, toNat_wordXKK]
  have := a.isLt; have := x.isLt; have := k.isLt; omega

/-! ## Formats XY and XYN -/

@[simp] theorem nib0_word4 (a b c d : Nibble) : nib0 (word4 a b c d) = a := by
  apply BitVec.eq_of_toNat_eq
  rw [toNat_nib0, toNat_word4]
  have := a.isLt; have := b.isLt; have := c.isLt; have := d.isLt; omega

@[simp] theorem nib1_word4 (a b c d : Nibble) : nib1 (word4 a b c d) = b := by
  apply BitVec.eq_of_toNat_eq
  rw [toNat_nib1, toNat_word4]
  have := a.isLt; have := b.isLt; have := c.isLt; have := d.isLt; omega

@[simp] theorem nib2_word4 (a b c d : Nibble) : nib2 (word4 a b c d) = c := by
  apply BitVec.eq_of_toNat_eq
  rw [toNat_nib2, toNat_word4]
  have := a.isLt; have := b.isLt; have := c.isLt; have := d.isLt; omega

@[simp] theorem nib3_word4 (a b c d : Nibble) : nib3 (word4 a b c d) = d := by
  apply BitVec.eq_of_toNat_eq
  rw [toNat_nib3, toNat_word4]
  have := a.isLt; have := b.isLt; have := c.isLt; have := d.isLt; omega

@[simp] theorem nib0_wordXYN (a x y n : Nibble) : nib0 (wordXYN a x y n) = a := nib0_word4 a x y n
@[simp] theorem nib1_wordXYN (a x y n : Nibble) : nib1 (wordXYN a x y n) = x := nib1_word4 a x y n
@[simp] theorem nib2_wordXYN (a x y n : Nibble) : nib2 (wordXYN a x y n) = y := nib2_word4 a x y n
@[simp] theorem nib3_wordXYN (a x y n : Nibble) : nib3 (wordXYN a x y n) = n := nib3_word4 a x y n

theorem toNat_fieldKK_word4 (a b c d : Nibble) :
    (fieldKK (word4 a b c d)).toNat = 16 * c.toNat + d.toNat := by
  rw [toNat_fieldKK, toNat_word4]
  have := c.isLt; have := d.isLt; omega

/-! ## A word is its fields -/

theorem word4_nibbles (ir : Word) : word4 (nib0 ir) (nib1 ir) (nib2 ir) (nib3 ir) = ir := by
  apply BitVec.eq_of_toNat_eq
  rw [toNat_word4, toNat_nib0, toNat_nib1, toNat_nib2, toNat_nib3]
  have := ir.isLt; omega

theorem wordXKK_fields (ir : Word) : wordXKK (nib0 ir) (nib1 ir) (fieldKK ir) = ir := by
  apply BitVec.eq_of_toNat_eq
  rw [toNat_wordXKK, toNat_nib0, toNat_nib1, toNat_fieldKK]
  have := ir.isLt; omega

theorem wordNNN_fields (ir : Word) : wordNNN (nib0 ir) (fieldNNN ir) = ir := by
  apply BitVec.eq_of_toNat_eq
  rw [toNat_wordNNN, toNat_nib0, toNat_fieldNNN]
  have := ir.isLt; omega

/-! ## Masks -/

/-- A mask of four whole nibbles keeps each nibble or clears it. -/
theorem word4_and (a b c d : Nibble) (m : Word) :
    word4 a b c d &&& m =
      (a.setWidth 16 <<< 12 &&& m) ||| (b.setWidth 16 <<< 8 &&& m) ||| (c.setWidth 16 <<< 4 &&& m) |||
        (d.setWidth 16 &&& m) := by
  apply BitVec.eq_of_getLsbD_eq
  intro i _
  simp only [word4, BitVec.getLsbD_and, BitVec.getLsbD_or, Bool.and_or_distrib_right]

theorem word4_and_F0FF (a b c d : Nibble) : word4 a b c d &&& 0xF0FF#16 = word4 a 0 c d := by
  rw [word4_and, word4]
  congr 1
  · congr 1
    · congr 1
      · revert a; decide
      · revert b; decide
    · revert c; decide
  · revert d; decide

theorem word4_and_F000 (a b c d : Nibble) : word4 a b c d &&& 0xF000#16 = word4 a 0 0 0 := by
  rw [word4_and, word4]
  congr 1
  · congr 1
    · congr 1
      · revert a; decide
      · revert b; decide
    · revert c; decide
  · revert d; decide

theorem word4_and_F00F (a b c d : Nibble) : word4 a b c d &&& 0xF00F#16 = word4 a 0 0 d := by
  rw [word4_and, word4]
  congr 1
  · congr 1
    · congr 1
      · revert a; decide
      · revert b; decide
    · revert c; decide
  · revert d; decide

theorem word4_and_FFF0 (a b c d : Nibble) : word4 a b c d &&& 0xFFF0#16 = word4 a b c 0 := by
  rw [word4_and, word4]
  congr 1
  · congr 1
    · congr 1
      · revert a; decide
      · revert b; decide
    · revert c; decide
  · revert d; decide

theorem word4_and_FF0F (a b c d : Nibble) : word4 a b c d &&& 0xFF0F#16 = word4 a b 0 d := by
  rw [word4_and, word4]
  congr 1
  · congr 1
    · congr 1
      · revert a; decide
      · revert b; decide
    · revert c; decide
  · revert d; decide

/-! ## Bytes of a word -/

@[simp] theorem wordOfBytes_split (w : Word) : wordOfBytes (highByte w) (lowByte w) = w := by
  apply BitVec.eq_of_toNat_eq
  rw [toNat_wordOfBytes, toNat_highByte, toNat_lowByte]
  have := w.isLt; omega

@[simp] theorem highByte_wordOfBytes (h l : Byte) : highByte (wordOfBytes h l) = h := by
  apply BitVec.eq_of_toNat_eq
  rw [toNat_highByte, toNat_wordOfBytes]
  have := l.isLt; omega

@[simp] theorem lowByte_wordOfBytes (h l : Byte) : lowByte (wordOfBytes h l) = l := by
  apply BitVec.eq_of_toNat_eq
  rw [toNat_lowByte, toNat_wordOfBytes]
  have := l.isLt; omega

/-! ## Identifiers and the dispatch table -/

/-- The identifier of a word of families 0, E and F (R93). -/
theorem opcodeId_bySubByte {ir : Word} (h : nib0 ir = 0x0#4 ∨ nib0 ir = 0xE#4 ∨ nib0 ir = 0xF#4) :
    opcodeId ir = word4 (nib0 ir) 0 (nib2 ir) (nib3 ir) := by
  simp only [opcodeId, if_pos h]

/-- The identifier of a word of family 8 (R93). -/
theorem opcodeId_byTrailing {ir : Word} (h : nib0 ir = 0x8#4) :
    opcodeId ir = word4 0x8#4 0 0 (nib3 ir) := by
  simp [opcodeId, h]

/-- The identifier of a word of the twelve single-instruction families (R93). -/
theorem opcodeId_byFamily {ir : Word} (h : nib0 ir ≠ 0x0#4) (h8 : nib0 ir ≠ 0x8#4)
    (hE : nib0 ir ≠ 0xE#4) (hF : nib0 ir ≠ 0xF#4) : opcodeId ir = word4 (nib0 ir) 0 0 0 := by
  simp [opcodeId, h, h8, hE, hF]

/-- The identifier of a format NNN word of a single-instruction family. -/
theorem opcodeId_wordNNN {a : Nibble} (n : Addr12)
    (h : a ≠ 0x0#4 ∧ a ≠ 0x8#4 ∧ a ≠ 0xE#4 ∧ a ≠ 0xF#4) : opcodeId (wordNNN a n) = word4 a 0 0 0 := by
  rw [opcodeId_byFamily] <;> simp only [nib0_wordNNN] <;> simp only [h, ne_eq, not_false_eq_true]

/-- The identifier of a format XKK word of a single-instruction family. -/
theorem opcodeId_wordXKK {a : Nibble} (x : Nibble) (k : Byte)
    (h : a ≠ 0x0#4 ∧ a ≠ 0x8#4 ∧ a ≠ 0xE#4 ∧ a ≠ 0xF#4) : opcodeId (wordXKK a x k) = word4 a 0 0 0 := by
  rw [opcodeId_byFamily] <;> simp only [nib0_wordXKK] <;> simp only [h, ne_eq, not_false_eq_true]

/-- The identifier of a format XY or XYN word of a single-instruction family. -/
theorem opcodeId_word4 {a : Nibble} (x y n : Nibble)
    (h : a ≠ 0x0#4 ∧ a ≠ 0x8#4 ∧ a ≠ 0xE#4 ∧ a ≠ 0xF#4) : opcodeId (word4 a x y n) = word4 a 0 0 0 := by
  rw [opcodeId_byFamily] <;> simp only [nib0_word4] <;> simp only [h, ne_eq, not_false_eq_true]

/-- The identifier of a format XS word of families 0, E and F. -/
theorem opcodeId_wordXS {a : Nibble} (x : Nibble) (k : Byte) (h : a = 0x0#4 ∨ a = 0xE#4 ∨ a = 0xF#4) :
    opcodeId (wordXKK a x k) = word4 a 0 (k.extractLsb' 4 4) (k.extractLsb' 0 4) := by
  rw [opcodeId_bySubByte (by simpa only [nib0_wordXKK] using h)]
  simp

/-- The identifier of a word of family 8. -/
theorem opcodeId_word4_family8 (x y n : Nibble) : opcodeId (word4 0x8 x y n) = word4 0x8 0 0 n := by
  rw [opcodeId_byTrailing] <;> simp

/-- The identifier of a word of family 0. -/
theorem opcodeId_word4_family0 (x y n : Nibble) : opcodeId (word4 0x0 x y n) = word4 0x0 0 y n := by
  rw [opcodeId_bySubByte] <;> simp

/-- An identifier of family 0 has an entry only for CLS and RET (R95, R97). -/
theorem selectRow_family0 : ∀ c d : Nibble, ¬ (c = 0xE#4 ∧ (d = 0x0#4 ∨ d = 0xE#4)) →
    selectRow (word4 0x0#4 0 c d) = none := by
  decide

/-- Which words of family 8 have an entry (R97). -/
theorem selectRow_isNone_family8 : ∀ d : Nibble,
    (selectRow (word4 0x8#4 0 0 d)).isNone = decide (d.toNat ∈ [8, 9, 10, 11, 12, 13, 15]) := by
  decide

/-- Which words of family E have an entry (R97). -/
theorem selectRow_isNone_familyE : ∀ c d : Nibble,
    (selectRow (word4 0xE#4 0 c d)).isNone = decide (16 * c.toNat + d.toNat ∉ [0x9E, 0xA1]) := by
  decide

/-- Which words of family F have an entry (R97). -/
theorem selectRow_isNone_familyF : ∀ c d : Nibble,
    (selectRow (word4 0xF#4 0 c d)).isNone =
      decide (16 * c.toNat + d.toNat ∉ [0x07, 0x0A, 0x15, 0x18, 0x1E, 0x29, 0x33, 0x55, 0x65]) := by
  decide

/-- What decoding a word with an entry gives. -/
theorem decodeWord_of_row {ir : Word} {row : DispatchRow} (h : selectRow (opcodeId ir) = some row) :
    decodeWord ir = some (row.build ir) := by
  simp [decodeWord, h]

/-- The same, with the identifier computed apart. -/
theorem decodeWord_of_identifier {ir id : Word} {build : Word → Instr} (h : opcodeId ir = id)
    (hr : selectRow id = some ⟨id, build⟩) : decodeWord ir = some (build ir) := by
  subst h; exact decodeWord_of_row hr

/-- The byte decoder is the word decoder on the first two bytes (R90, R99). -/
theorem decode_cons_cons (hi lo : Byte) (rest : List Byte) :
    decode (hi :: lo :: rest) =
      match decodeWord (wordOfBytes hi lo) with
      | some i => .instr i rest
      | none => .unknownOpcode (wordOfBytes hi lo) rest := rfl

end Sys2Proof
end

