-- ==== Sys2Proof/Laws/Memory.lean ====
section
/-! SUPPORT. The laws of memory (spec/20_memory.md R64, R70): a read after a write, and that every memory
operation keeps the canonical form. -/

namespace Sys2Proof.Machine

open Sys2Proof

/-- In the font region the reset content is the font (spec/20_memory.md R66). -/
theorem Memory.unlisted_font {f : Config.Font} {a : Nat} (h : a < 80) : Memory.unlisted f a = f[a]'h := by
  simp [Memory.unlisted, h]

/-- Above the font the reset content is zero (spec/10_state.md R37). -/
theorem Memory.unlisted_above {f : Config.Font} {a : Nat} (h : 80 ≤ a) : Memory.unlisted f a = 0 := by
  simp [Memory.unlisted, show ¬ a < 80 by omega]

@[simp] theorem Memory.read_nil (f : Config.Font) (a : Nat) : Memory.read f [] a = Memory.unlisted f a := rfl

@[simp] theorem Memory.wf_nil (f : Config.Font) (size : Nat) : Memory.wf f size [] = true := rfl

variable {f : Config.Font} {size : Nat}

theorem Memory.wfFrom_cons (lo a : Nat) (v : Byte) (m : Memory) :
    Memory.wfFrom f size lo ((a, v) :: m) = true ↔
      lo ≤ a ∧ a < size ∧ v ≠ Memory.unlisted f a ∧ Memory.wfFrom f size (a + 1) m = true := by
  simp [Memory.wfFrom, and_assoc]

theorem Memory.wfFrom_mono {lo lo' : Nat} {m : Memory} (h : lo' ≤ lo) (hm : Memory.wfFrom f size lo m = true) :
    Memory.wfFrom f size lo' m = true := by
  cases m with
  | nil => rfl
  | cons c m =>
    obtain ⟨a, v⟩ := c
    rw [Memory.wfFrom_cons] at hm ⊢
    exact ⟨by omega, hm.2⟩

/-- Below its first possible address a memory lists nothing. -/
theorem Memory.read_below {lo a : Nat} {m : Memory} (hm : Memory.wfFrom f size lo m = true) (h : a < lo) :
    Memory.read f m a = Memory.unlisted f a := by
  induction m generalizing lo with
  | nil => rfl
  | cons c m ih =>
    obtain ⟨b, w⟩ := c
    rw [Memory.wfFrom_cons] at hm
    rw [Memory.read, if_neg (by omega)]
    exact ih hm.2.2.2 (by omega)

theorem Memory.read_consCell (m : Memory) (a b : Nat) (v : Byte)
    (hm : Memory.read f m a = Memory.unlisted f a) :
    Memory.read f (Memory.consCell f a v m) b = if b = a then v else Memory.read f m b := by
  unfold Memory.consCell
  split
  · split
    · subst_vars; rw [hm]
    · rfl
  · rfl

theorem Memory.wfFrom_consCell {lo a : Nat} {v : Byte} {m : Memory} (hlo : lo ≤ a) (ha : a < size)
    (hm : Memory.wfFrom f size (a + 1) m = true) : Memory.wfFrom f size lo (Memory.consCell f a v m) = true := by
  unfold Memory.consCell
  split
  · exact Memory.wfFrom_mono (by omega) hm
  · exact (Memory.wfFrom_cons _ _ _ _).2 ⟨hlo, ha, by assumption, hm⟩

theorem Memory.read_write_from {lo : Nat} {m : Memory} (hm : Memory.wfFrom f size lo m = true) (a b : Nat)
    (v : Byte) : Memory.read f (Memory.write f m a v) b = if b = a then v else Memory.read f m b := by
  induction m generalizing lo with
  | nil => exact Memory.read_consCell [] a b v rfl
  | cons c m ih =>
    obtain ⟨d, w⟩ := c
    have hc := (Memory.wfFrom_cons _ _ _ _).1 hm
    unfold Memory.write
    split
    · refine Memory.read_consCell _ a b v ?_
      rw [Memory.read, if_neg (by omega)]
      exact Memory.read_below hc.2.2.2 (by omega)
    · split
      · subst_vars
        rw [Memory.read_consCell _ _ b v (Memory.read_below hc.2.2.2 (by omega))]
        simp only [Memory.read]
        split <;> rfl
      · simp only [Memory.read, ih hc.2.2.2]
        split
        · rw [if_neg (by omega)]
        · rfl

theorem Memory.wfFrom_write {lo : Nat} {m : Memory} (hm : Memory.wfFrom f size lo m = true) (a : Nat) (v : Byte)
    (hlo : lo ≤ a) (ha : a < size) : Memory.wfFrom f size lo (Memory.write f m a v) = true := by
  induction m generalizing lo with
  | nil => exact Memory.wfFrom_consCell hlo ha rfl
  | cons c m ih =>
    obtain ⟨d, w⟩ := c
    have hc := (Memory.wfFrom_cons _ _ _ _).1 hm
    unfold Memory.write
    split
    · exact Memory.wfFrom_consCell hlo ha ((Memory.wfFrom_cons _ _ _ _).2 ⟨by omega, hc.2⟩)
    · split
      · subst_vars
        exact Memory.wfFrom_consCell hlo ha hc.2.2.2
      · exact (Memory.wfFrom_cons _ _ _ _).2 ⟨hc.1, hc.2.1, hc.2.2.1, ih hc.2.2.2 (by omega)⟩

/-- A byte reads as last written, and every other byte as before (R64). -/
theorem Memory.read_write {m : Memory} (hm : Memory.wf f size m = true) (a b : Nat) (v : Byte) :
    Memory.read f (Memory.write f m a v) b = if b = a then v else Memory.read f m b :=
  Memory.read_write_from hm a b v

/-- A write to a backed address keeps the canonical form. -/
theorem Memory.wf_write {m : Memory} (hm : Memory.wf f size m = true) (a : Nat) (v : Byte) (ha : a < size) :
    Memory.wf f size (Memory.write f m a v) = true :=
  Memory.wfFrom_write hm a v (Nat.zero_le a) ha

/-- Writing consecutive backed bytes keeps the canonical form. -/
theorem Memory.wf_writeBytes {m : Memory} (hm : Memory.wf f size m = true) (a : Nat) (vs : List Byte)
    (h : a + vs.length ≤ size) : Memory.wf f size (Memory.writeBytes f m a vs) = true := by
  induction vs generalizing m a with
  | nil => exact hm
  | cons v vs ih =>
    simp only [List.length_cons] at h
    exact ih (Memory.wf_write hm a v (by omega)) (a + 1) (by omega)

/-- What reads as what after a store of consecutive bytes. -/
theorem Memory.read_writeBytes {m : Memory} (hm : Memory.wf f size m = true) (a b : Nat) (vs : List Byte)
    (h : a + vs.length ≤ size) :
    Memory.read f (Memory.writeBytes f m a vs) b =
      if a ≤ b ∧ b < a + vs.length then vs.getD (b - a) 0 else Memory.read f m b := by
  induction vs generalizing m a with
  | nil => simp [Memory.writeBytes]
  | cons v vs ih =>
    simp only [List.length_cons] at h
    rw [Memory.writeBytes, ih (Memory.wf_write hm a v (by omega)) (a + 1) (by omega), Memory.read_write hm]
    simp only [List.length_cons]
    by_cases hb : b = a
    · subst hb
      rw [if_neg (by omega), if_pos rfl, if_pos (by omega)]
      simp
    · rw [if_neg hb]
      by_cases h1 : a + 1 ≤ b ∧ b < a + 1 + vs.length
      · rw [if_pos h1, if_pos (by omega)]
        obtain ⟨k, hk⟩ : ∃ k, b - a = k + 1 := ⟨b - a - 1, by omega⟩
        rw [hk, List.getD_cons_succ, show b - (a + 1) = k by omega]
      · rw [if_neg h1, if_neg (by omega)]

@[simp] theorem Memory.length_readBytes (m : Memory) (a n : Nat) : (Memory.readBytes f m a n).length = n := by
  induction n generalizing a with
  | zero => rfl
  | succ n ih => simp [Memory.readBytes, ih]

theorem Memory.getD_readBytes (m : Memory) (a n k : Nat) (hk : k < n) :
    (Memory.readBytes f m a n).getD k 0 = Memory.read f m (a + k) := by
  induction n generalizing a k with
  | zero => omega
  | succ n ih =>
    cases k with
    | zero => simp [Memory.readBytes]
    | succ k =>
      rw [Memory.readBytes, List.getD_cons_succ, ih (a + 1) k (by omega)]
      congr 1; omega

end Sys2Proof.Machine
end

