-- ==== Sys2Proof/Laws/State.lean ====
section
/-! SUPPORT. What each named update of the state does to each field, so that no later proof unfolds a
record update. -/

namespace Sys2Proof.Machine

open Sys2Proof

/-! ## setV -/

@[simp] theorem State.setV_v (s : State) (x : Reg) (b : Byte) : (s.setV x b).v = s.v.set x.toNat b x.isLt := rfl
@[simp] theorem State.setV_i (s : State) (x : Reg) (b : Byte) : (s.setV x b).i = s.i := rfl
@[simp] theorem State.setV_pc (s : State) (x : Reg) (b : Byte) : (s.setV x b).pc = s.pc := rfl
@[simp] theorem State.setV_dt (s : State) (x : Reg) (b : Byte) : (s.setV x b).dt = s.dt := rfl
@[simp] theorem State.setV_st (s : State) (x : Reg) (b : Byte) : (s.setV x b).st = s.st := rfl
@[simp] theorem State.setV_stack (s : State) (x : Reg) (b : Byte) : (s.setV x b).stack = s.stack := rfl
@[simp] theorem State.setV_sp (s : State) (x : Reg) (b : Byte) : (s.setV x b).sp = s.sp := rfl
@[simp] theorem State.setV_mem (s : State) (x : Reg) (b : Byte) : (s.setV x b).mem = s.mem := rfl
@[simp] theorem State.setV_fb (s : State) (x : Reg) (b : Byte) : (s.setV x b).fb = s.fb := rfl
@[simp] theorem State.setV_fault (s : State) (x : Reg) (b : Byte) : (s.setV x b).fault = s.fault := rfl
@[simp] theorem State.setV_params (s : State) (x : Reg) (b : Byte) : (s.setV x b).params = s.params := rfl
@[simp] theorem State.setV_run (s : State) (x : Reg) (b : Byte) : (s.setV x b).run = s.run := rfl
@[simp] theorem State.setV_holding (s : State) (x : Reg) (b : Byte) : (s.setV x b).holding = s.holding := rfl
@[simp] theorem State.setV_script (s : State) (x : Reg) (b : Byte) : (s.setV x b).script = s.script := rfl
@[simp] theorem State.setV_tick (s : State) (x : Reg) (b : Byte) : (s.setV x b).tick = s.tick := rfl
@[simp] theorem State.setV_events (s : State) (x : Reg) (b : Byte) : (s.setV x b).events = s.events := rfl

/-! ## setI -/

@[simp] theorem State.setI_v (s : State) (w : Word) : (s.setI w).v = s.v := rfl
@[simp] theorem State.setI_i (s : State) (w : Word) : (s.setI w).i = w := rfl
@[simp] theorem State.setI_pc (s : State) (w : Word) : (s.setI w).pc = s.pc := rfl
@[simp] theorem State.setI_dt (s : State) (w : Word) : (s.setI w).dt = s.dt := rfl
@[simp] theorem State.setI_st (s : State) (w : Word) : (s.setI w).st = s.st := rfl
@[simp] theorem State.setI_stack (s : State) (w : Word) : (s.setI w).stack = s.stack := rfl
@[simp] theorem State.setI_sp (s : State) (w : Word) : (s.setI w).sp = s.sp := rfl
@[simp] theorem State.setI_mem (s : State) (w : Word) : (s.setI w).mem = s.mem := rfl
@[simp] theorem State.setI_fb (s : State) (w : Word) : (s.setI w).fb = s.fb := rfl
@[simp] theorem State.setI_fault (s : State) (w : Word) : (s.setI w).fault = s.fault := rfl
@[simp] theorem State.setI_params (s : State) (w : Word) : (s.setI w).params = s.params := rfl
@[simp] theorem State.setI_run (s : State) (w : Word) : (s.setI w).run = s.run := rfl
@[simp] theorem State.setI_holding (s : State) (w : Word) : (s.setI w).holding = s.holding := rfl
@[simp] theorem State.setI_script (s : State) (w : Word) : (s.setI w).script = s.script := rfl
@[simp] theorem State.setI_tick (s : State) (w : Word) : (s.setI w).tick = s.tick := rfl
@[simp] theorem State.setI_events (s : State) (w : Word) : (s.setI w).events = s.events := rfl

/-! ## setPc -/

@[simp] theorem State.setPc_v (s : State) (w : Word) : (s.setPc w).v = s.v := rfl
@[simp] theorem State.setPc_i (s : State) (w : Word) : (s.setPc w).i = s.i := rfl
@[simp] theorem State.setPc_pc (s : State) (w : Word) : (s.setPc w).pc = w := rfl
@[simp] theorem State.setPc_dt (s : State) (w : Word) : (s.setPc w).dt = s.dt := rfl
@[simp] theorem State.setPc_st (s : State) (w : Word) : (s.setPc w).st = s.st := rfl
@[simp] theorem State.setPc_stack (s : State) (w : Word) : (s.setPc w).stack = s.stack := rfl
@[simp] theorem State.setPc_sp (s : State) (w : Word) : (s.setPc w).sp = s.sp := rfl
@[simp] theorem State.setPc_mem (s : State) (w : Word) : (s.setPc w).mem = s.mem := rfl
@[simp] theorem State.setPc_fb (s : State) (w : Word) : (s.setPc w).fb = s.fb := rfl
@[simp] theorem State.setPc_fault (s : State) (w : Word) : (s.setPc w).fault = s.fault := rfl
@[simp] theorem State.setPc_params (s : State) (w : Word) : (s.setPc w).params = s.params := rfl
@[simp] theorem State.setPc_run (s : State) (w : Word) : (s.setPc w).run = s.run := rfl
@[simp] theorem State.setPc_holding (s : State) (w : Word) : (s.setPc w).holding = s.holding := rfl
@[simp] theorem State.setPc_script (s : State) (w : Word) : (s.setPc w).script = s.script := rfl
@[simp] theorem State.setPc_tick (s : State) (w : Word) : (s.setPc w).tick = s.tick := rfl
@[simp] theorem State.setPc_events (s : State) (w : Word) : (s.setPc w).events = s.events := rfl

/-! ## setDt -/

@[simp] theorem State.setDt_v (s : State) (b : Byte) : (s.setDt b).v = s.v := rfl
@[simp] theorem State.setDt_i (s : State) (b : Byte) : (s.setDt b).i = s.i := rfl
@[simp] theorem State.setDt_pc (s : State) (b : Byte) : (s.setDt b).pc = s.pc := rfl
@[simp] theorem State.setDt_dt (s : State) (b : Byte) : (s.setDt b).dt = b := rfl
@[simp] theorem State.setDt_st (s : State) (b : Byte) : (s.setDt b).st = s.st := rfl
@[simp] theorem State.setDt_stack (s : State) (b : Byte) : (s.setDt b).stack = s.stack := rfl
@[simp] theorem State.setDt_sp (s : State) (b : Byte) : (s.setDt b).sp = s.sp := rfl
@[simp] theorem State.setDt_mem (s : State) (b : Byte) : (s.setDt b).mem = s.mem := rfl
@[simp] theorem State.setDt_fb (s : State) (b : Byte) : (s.setDt b).fb = s.fb := rfl
@[simp] theorem State.setDt_fault (s : State) (b : Byte) : (s.setDt b).fault = s.fault := rfl
@[simp] theorem State.setDt_params (s : State) (b : Byte) : (s.setDt b).params = s.params := rfl
@[simp] theorem State.setDt_run (s : State) (b : Byte) : (s.setDt b).run = s.run := rfl
@[simp] theorem State.setDt_holding (s : State) (b : Byte) : (s.setDt b).holding = s.holding := rfl
@[simp] theorem State.setDt_script (s : State) (b : Byte) : (s.setDt b).script = s.script := rfl
@[simp] theorem State.setDt_tick (s : State) (b : Byte) : (s.setDt b).tick = s.tick := rfl
@[simp] theorem State.setDt_events (s : State) (b : Byte) : (s.setDt b).events = s.events := rfl

/-! ## setSt -/

@[simp] theorem State.setSt_v (s : State) (b : Byte) : (s.setSt b).v = s.v := rfl
@[simp] theorem State.setSt_i (s : State) (b : Byte) : (s.setSt b).i = s.i := rfl
@[simp] theorem State.setSt_pc (s : State) (b : Byte) : (s.setSt b).pc = s.pc := rfl
@[simp] theorem State.setSt_dt (s : State) (b : Byte) : (s.setSt b).dt = s.dt := rfl
@[simp] theorem State.setSt_st (s : State) (b : Byte) : (s.setSt b).st = b := rfl
@[simp] theorem State.setSt_stack (s : State) (b : Byte) : (s.setSt b).stack = s.stack := rfl
@[simp] theorem State.setSt_sp (s : State) (b : Byte) : (s.setSt b).sp = s.sp := rfl
@[simp] theorem State.setSt_mem (s : State) (b : Byte) : (s.setSt b).mem = s.mem := rfl
@[simp] theorem State.setSt_fb (s : State) (b : Byte) : (s.setSt b).fb = s.fb := rfl
@[simp] theorem State.setSt_fault (s : State) (b : Byte) : (s.setSt b).fault = s.fault := rfl
@[simp] theorem State.setSt_params (s : State) (b : Byte) : (s.setSt b).params = s.params := rfl
@[simp] theorem State.setSt_run (s : State) (b : Byte) : (s.setSt b).run = s.run := rfl
@[simp] theorem State.setSt_holding (s : State) (b : Byte) : (s.setSt b).holding = s.holding := rfl
@[simp] theorem State.setSt_script (s : State) (b : Byte) : (s.setSt b).script = s.script := rfl
@[simp] theorem State.setSt_tick (s : State) (b : Byte) : (s.setSt b).tick = s.tick := rfl
@[simp] theorem State.setSt_events (s : State) (b : Byte) : (s.setSt b).events = s.events := rfl

/-! ## writeBytes -/

@[simp] theorem State.writeBytes_v (s : State) (a : Nat) (bs : List Byte) : (s.writeBytes a bs).v = s.v := rfl
@[simp] theorem State.writeBytes_i (s : State) (a : Nat) (bs : List Byte) : (s.writeBytes a bs).i = s.i := rfl
@[simp] theorem State.writeBytes_pc (s : State) (a : Nat) (bs : List Byte) : (s.writeBytes a bs).pc = s.pc := rfl
@[simp] theorem State.writeBytes_dt (s : State) (a : Nat) (bs : List Byte) : (s.writeBytes a bs).dt = s.dt := rfl
@[simp] theorem State.writeBytes_st (s : State) (a : Nat) (bs : List Byte) : (s.writeBytes a bs).st = s.st := rfl
@[simp] theorem State.writeBytes_stack (s : State) (a : Nat) (bs : List Byte) : (s.writeBytes a bs).stack = s.stack := rfl
@[simp] theorem State.writeBytes_sp (s : State) (a : Nat) (bs : List Byte) : (s.writeBytes a bs).sp = s.sp := rfl
@[simp] theorem State.writeBytes_mem (s : State) (a : Nat) (bs : List Byte) : (s.writeBytes a bs).mem = Memory.writeBytes s.params.font s.mem a bs := rfl
@[simp] theorem State.writeBytes_fb (s : State) (a : Nat) (bs : List Byte) : (s.writeBytes a bs).fb = s.fb := rfl
@[simp] theorem State.writeBytes_fault (s : State) (a : Nat) (bs : List Byte) : (s.writeBytes a bs).fault = s.fault := rfl
@[simp] theorem State.writeBytes_params (s : State) (a : Nat) (bs : List Byte) : (s.writeBytes a bs).params = s.params := rfl
@[simp] theorem State.writeBytes_run (s : State) (a : Nat) (bs : List Byte) : (s.writeBytes a bs).run = s.run := rfl
@[simp] theorem State.writeBytes_holding (s : State) (a : Nat) (bs : List Byte) : (s.writeBytes a bs).holding = s.holding := rfl
@[simp] theorem State.writeBytes_script (s : State) (a : Nat) (bs : List Byte) : (s.writeBytes a bs).script = s.script := rfl
@[simp] theorem State.writeBytes_tick (s : State) (a : Nat) (bs : List Byte) : (s.writeBytes a bs).tick = s.tick := rfl
@[simp] theorem State.writeBytes_events (s : State) (a : Nat) (bs : List Byte) : (s.writeBytes a bs).events = s.events := rfl

/-! ## setFb -/

@[simp] theorem State.setFb_v (s : State) (f : FrameBuffer) : (s.setFb f).v = s.v := rfl
@[simp] theorem State.setFb_i (s : State) (f : FrameBuffer) : (s.setFb f).i = s.i := rfl
@[simp] theorem State.setFb_pc (s : State) (f : FrameBuffer) : (s.setFb f).pc = s.pc := rfl
@[simp] theorem State.setFb_dt (s : State) (f : FrameBuffer) : (s.setFb f).dt = s.dt := rfl
@[simp] theorem State.setFb_st (s : State) (f : FrameBuffer) : (s.setFb f).st = s.st := rfl
@[simp] theorem State.setFb_stack (s : State) (f : FrameBuffer) : (s.setFb f).stack = s.stack := rfl
@[simp] theorem State.setFb_sp (s : State) (f : FrameBuffer) : (s.setFb f).sp = s.sp := rfl
@[simp] theorem State.setFb_mem (s : State) (f : FrameBuffer) : (s.setFb f).mem = s.mem := rfl
@[simp] theorem State.setFb_fb (s : State) (f : FrameBuffer) : (s.setFb f).fb = f := rfl
@[simp] theorem State.setFb_fault (s : State) (f : FrameBuffer) : (s.setFb f).fault = s.fault := rfl
@[simp] theorem State.setFb_params (s : State) (f : FrameBuffer) : (s.setFb f).params = s.params := rfl
@[simp] theorem State.setFb_run (s : State) (f : FrameBuffer) : (s.setFb f).run = s.run := rfl
@[simp] theorem State.setFb_holding (s : State) (f : FrameBuffer) : (s.setFb f).holding = s.holding := rfl
@[simp] theorem State.setFb_script (s : State) (f : FrameBuffer) : (s.setFb f).script = s.script := rfl
@[simp] theorem State.setFb_tick (s : State) (f : FrameBuffer) : (s.setFb f).tick = s.tick := rfl
@[simp] theorem State.setFb_events (s : State) (f : FrameBuffer) : (s.setFb f).events = s.events := rfl

/-! ## pushed -/

@[simp] theorem State.pushed_v (s : State) (w : Word) : (s.pushed w).v = s.v := rfl
@[simp] theorem State.pushed_i (s : State) (w : Word) : (s.pushed w).i = s.i := rfl
@[simp] theorem State.pushed_pc (s : State) (w : Word) : (s.pushed w).pc = s.pc := rfl
@[simp] theorem State.pushed_dt (s : State) (w : Word) : (s.pushed w).dt = s.dt := rfl
@[simp] theorem State.pushed_st (s : State) (w : Word) : (s.pushed w).st = s.st := rfl
@[simp] theorem State.pushed_stack (s : State) (w : Word) : (s.pushed w).stack = s.stack.set s.sp w := rfl
@[simp] theorem State.pushed_sp (s : State) (w : Word) : (s.pushed w).sp = s.sp + 1 := rfl
@[simp] theorem State.pushed_mem (s : State) (w : Word) : (s.pushed w).mem = s.mem := rfl
@[simp] theorem State.pushed_fb (s : State) (w : Word) : (s.pushed w).fb = s.fb := rfl
@[simp] theorem State.pushed_fault (s : State) (w : Word) : (s.pushed w).fault = s.fault := rfl
@[simp] theorem State.pushed_params (s : State) (w : Word) : (s.pushed w).params = s.params := rfl
@[simp] theorem State.pushed_run (s : State) (w : Word) : (s.pushed w).run = s.run := rfl
@[simp] theorem State.pushed_holding (s : State) (w : Word) : (s.pushed w).holding = s.holding := rfl
@[simp] theorem State.pushed_script (s : State) (w : Word) : (s.pushed w).script = s.script := rfl
@[simp] theorem State.pushed_tick (s : State) (w : Word) : (s.pushed w).tick = s.tick := rfl
@[simp] theorem State.pushed_events (s : State) (w : Word) : (s.pushed w).events = s.events := rfl

/-! ## popped -/

@[simp] theorem State.popped_v (s : State) : (s.popped).v = s.v := rfl
@[simp] theorem State.popped_i (s : State) : (s.popped).i = s.i := rfl
@[simp] theorem State.popped_pc (s : State) : (s.popped).pc = s.pc := rfl
@[simp] theorem State.popped_dt (s : State) : (s.popped).dt = s.dt := rfl
@[simp] theorem State.popped_st (s : State) : (s.popped).st = s.st := rfl
@[simp] theorem State.popped_stack (s : State) : (s.popped).stack = s.stack := rfl
@[simp] theorem State.popped_sp (s : State) : (s.popped).sp = s.sp - 1 := rfl
@[simp] theorem State.popped_mem (s : State) : (s.popped).mem = s.mem := rfl
@[simp] theorem State.popped_fb (s : State) : (s.popped).fb = s.fb := rfl
@[simp] theorem State.popped_fault (s : State) : (s.popped).fault = s.fault := rfl
@[simp] theorem State.popped_params (s : State) : (s.popped).params = s.params := rfl
@[simp] theorem State.popped_run (s : State) : (s.popped).run = s.run := rfl
@[simp] theorem State.popped_holding (s : State) : (s.popped).holding = s.holding := rfl
@[simp] theorem State.popped_script (s : State) : (s.popped).script = s.script := rfl
@[simp] theorem State.popped_tick (s : State) : (s.popped).tick = s.tick := rfl
@[simp] theorem State.popped_events (s : State) : (s.popped).events = s.events := rfl

/-! ## emit -/

@[simp] theorem State.emit_v (s : State) (e : Event) : (s.emit e).v = s.v := rfl
@[simp] theorem State.emit_i (s : State) (e : Event) : (s.emit e).i = s.i := rfl
@[simp] theorem State.emit_pc (s : State) (e : Event) : (s.emit e).pc = s.pc := rfl
@[simp] theorem State.emit_dt (s : State) (e : Event) : (s.emit e).dt = s.dt := rfl
@[simp] theorem State.emit_st (s : State) (e : Event) : (s.emit e).st = s.st := rfl
@[simp] theorem State.emit_stack (s : State) (e : Event) : (s.emit e).stack = s.stack := rfl
@[simp] theorem State.emit_sp (s : State) (e : Event) : (s.emit e).sp = s.sp := rfl
@[simp] theorem State.emit_mem (s : State) (e : Event) : (s.emit e).mem = s.mem := rfl
@[simp] theorem State.emit_fb (s : State) (e : Event) : (s.emit e).fb = s.fb := rfl
@[simp] theorem State.emit_fault (s : State) (e : Event) : (s.emit e).fault = s.fault := rfl
@[simp] theorem State.emit_params (s : State) (e : Event) : (s.emit e).params = s.params := rfl
@[simp] theorem State.emit_run (s : State) (e : Event) : (s.emit e).run = s.run := rfl
@[simp] theorem State.emit_holding (s : State) (e : Event) : (s.emit e).holding = s.holding := rfl
@[simp] theorem State.emit_script (s : State) (e : Event) : (s.emit e).script = s.script := rfl
@[simp] theorem State.emit_tick (s : State) (e : Event) : (s.emit e).tick = s.tick := rfl
@[simp] theorem State.emit_events (s : State) (e : Event) : (s.emit e).events = e :: s.events := rfl

/-! ## raise -/

@[simp] theorem State.raise_v (s : State) (f : FaultRecord) : (s.raise f).v = s.v := rfl
@[simp] theorem State.raise_i (s : State) (f : FaultRecord) : (s.raise f).i = s.i := rfl
@[simp] theorem State.raise_pc (s : State) (f : FaultRecord) : (s.raise f).pc = s.pc := rfl
@[simp] theorem State.raise_dt (s : State) (f : FaultRecord) : (s.raise f).dt = s.dt := rfl
@[simp] theorem State.raise_st (s : State) (f : FaultRecord) : (s.raise f).st = s.st := rfl
@[simp] theorem State.raise_stack (s : State) (f : FaultRecord) : (s.raise f).stack = s.stack := rfl
@[simp] theorem State.raise_sp (s : State) (f : FaultRecord) : (s.raise f).sp = s.sp := rfl
@[simp] theorem State.raise_mem (s : State) (f : FaultRecord) : (s.raise f).mem = s.mem := rfl
@[simp] theorem State.raise_fb (s : State) (f : FaultRecord) : (s.raise f).fb = s.fb := rfl
@[simp] theorem State.raise_fault (s : State) (f : FaultRecord) : (s.raise f).fault = some f := rfl
@[simp] theorem State.raise_params (s : State) (f : FaultRecord) : (s.raise f).params = s.params := rfl
@[simp] theorem State.raise_run (s : State) (f : FaultRecord) : (s.raise f).run = s.run := rfl
@[simp] theorem State.raise_holding (s : State) (f : FaultRecord) : (s.raise f).holding = s.holding := rfl
@[simp] theorem State.raise_script (s : State) (f : FaultRecord) : (s.raise f).script = s.script := rfl
@[simp] theorem State.raise_tick (s : State) (f : FaultRecord) : (s.raise f).tick = s.tick := rfl
@[simp] theorem State.raise_events (s : State) (f : FaultRecord) : (s.raise f).events = s.events := rfl

/-! ## nextInput -/

@[simp] theorem State.nextInput_v (s : State) : (s.nextInput).v = s.v := rfl
@[simp] theorem State.nextInput_i (s : State) : (s.nextInput).i = s.i := rfl
@[simp] theorem State.nextInput_pc (s : State) : (s.nextInput).pc = s.pc := rfl
@[simp] theorem State.nextInput_dt (s : State) : (s.nextInput).dt = s.dt := rfl
@[simp] theorem State.nextInput_st (s : State) : (s.nextInput).st = s.st := rfl
@[simp] theorem State.nextInput_stack (s : State) : (s.nextInput).stack = s.stack := rfl
@[simp] theorem State.nextInput_sp (s : State) : (s.nextInput).sp = s.sp := rfl
@[simp] theorem State.nextInput_mem (s : State) : (s.nextInput).mem = s.mem := rfl
@[simp] theorem State.nextInput_fb (s : State) : (s.nextInput).fb = s.fb := rfl
@[simp] theorem State.nextInput_fault (s : State) : (s.nextInput).fault = s.fault := rfl
@[simp] theorem State.nextInput_params (s : State) : (s.nextInput).params = s.params := rfl
@[simp] theorem State.nextInput_run (s : State) : (s.nextInput).run = s.run := rfl
@[simp] theorem State.nextInput_holding (s : State) : (s.nextInput).holding = false := rfl
@[simp] theorem State.nextInput_script (s : State) : (s.nextInput).script = s.script.tail := rfl
@[simp] theorem State.nextInput_tick (s : State) : (s.nextInput).tick = s.tick + 1 := rfl
@[simp] theorem State.nextInput_events (s : State) : (s.nextInput).events = s.events := rfl

/-! ## held -/

@[simp] theorem State.held_v (s : State) : (s.held).v = s.v := rfl
@[simp] theorem State.held_i (s : State) : (s.held).i = s.i := rfl
@[simp] theorem State.held_pc (s : State) : (s.held).pc = s.pc := rfl
@[simp] theorem State.held_dt (s : State) : (s.held).dt = s.dt := rfl
@[simp] theorem State.held_st (s : State) : (s.held).st = s.st := rfl
@[simp] theorem State.held_stack (s : State) : (s.held).stack = s.stack := rfl
@[simp] theorem State.held_sp (s : State) : (s.held).sp = s.sp := rfl
@[simp] theorem State.held_mem (s : State) : (s.held).mem = s.mem := rfl
@[simp] theorem State.held_fb (s : State) : (s.held).fb = s.fb := rfl
@[simp] theorem State.held_fault (s : State) : (s.held).fault = s.fault := rfl
@[simp] theorem State.held_params (s : State) : (s.held).params = s.params := rfl
@[simp] theorem State.held_run (s : State) : (s.held).run = s.run := rfl
@[simp] theorem State.held_holding (s : State) : (s.held).holding = true := rfl
@[simp] theorem State.held_script (s : State) : (s.held).script = s.script.tail := rfl
@[simp] theorem State.held_tick (s : State) : (s.held).tick = s.tick + 1 := rfl
@[simp] theorem State.held_events (s : State) : (s.held).events = s.events := rfl

/-! ## updateTimers -/

@[simp] theorem State.updateTimers_v (s : State) : (s.updateTimers).v = s.v := rfl
@[simp] theorem State.updateTimers_i (s : State) : (s.updateTimers).i = s.i := rfl
@[simp] theorem State.updateTimers_pc (s : State) : (s.updateTimers).pc = s.pc := rfl
@[simp] theorem State.updateTimers_dt (s : State) : (s.updateTimers).dt = countDown s.dt := rfl
@[simp] theorem State.updateTimers_st (s : State) : (s.updateTimers).st = countDown s.st := rfl
@[simp] theorem State.updateTimers_stack (s : State) : (s.updateTimers).stack = s.stack := rfl
@[simp] theorem State.updateTimers_sp (s : State) : (s.updateTimers).sp = s.sp := rfl
@[simp] theorem State.updateTimers_mem (s : State) : (s.updateTimers).mem = s.mem := rfl
@[simp] theorem State.updateTimers_fb (s : State) : (s.updateTimers).fb = s.fb := rfl
@[simp] theorem State.updateTimers_fault (s : State) : (s.updateTimers).fault = s.fault := rfl
@[simp] theorem State.updateTimers_params (s : State) : (s.updateTimers).params = s.params := rfl
@[simp] theorem State.updateTimers_run (s : State) : (s.updateTimers).run = s.run := rfl
@[simp] theorem State.updateTimers_holding (s : State) : (s.updateTimers).holding = s.holding := rfl
@[simp] theorem State.updateTimers_script (s : State) : (s.updateTimers).script = s.script := rfl
@[simp] theorem State.updateTimers_tick (s : State) : (s.updateTimers).tick = s.tick := rfl
@[simp] theorem State.updateTimers_events (s : State) : (s.updateTimers).events = s.events := rfl

/-! ## advancePc -/

@[simp] theorem State.advancePc_v (s : State) : (s.advancePc).v = s.v := rfl
@[simp] theorem State.advancePc_i (s : State) : (s.advancePc).i = s.i := rfl
@[simp] theorem State.advancePc_pc (s : State) : (s.advancePc).pc = s.pc + 2 := rfl
@[simp] theorem State.advancePc_dt (s : State) : (s.advancePc).dt = s.dt := rfl
@[simp] theorem State.advancePc_st (s : State) : (s.advancePc).st = s.st := rfl
@[simp] theorem State.advancePc_stack (s : State) : (s.advancePc).stack = s.stack := rfl
@[simp] theorem State.advancePc_sp (s : State) : (s.advancePc).sp = s.sp := rfl
@[simp] theorem State.advancePc_mem (s : State) : (s.advancePc).mem = s.mem := rfl
@[simp] theorem State.advancePc_fb (s : State) : (s.advancePc).fb = s.fb := rfl
@[simp] theorem State.advancePc_fault (s : State) : (s.advancePc).fault = s.fault := rfl
@[simp] theorem State.advancePc_params (s : State) : (s.advancePc).params = s.params := rfl
@[simp] theorem State.advancePc_run (s : State) : (s.advancePc).run = s.run := rfl
@[simp] theorem State.advancePc_holding (s : State) : (s.advancePc).holding = s.holding := rfl
@[simp] theorem State.advancePc_script (s : State) : (s.advancePc).script = s.script := rfl
@[simp] theorem State.advancePc_tick (s : State) : (s.advancePc).tick = s.tick := rfl
@[simp] theorem State.advancePc_events (s : State) : (s.advancePc).events = s.events := rfl

/-! ## Views: registers, inputs, stack entries -/

@[simp] theorem State.setV_input (s : State) (x : Reg) (b : Byte) : (s.setV x b).input = s.input := rfl
@[simp] theorem State.setV_stackEntry (s : State) (x : Reg) (b : Byte) (k : Nat) : (s.setV x b).stackEntry k = s.stackEntry k := rfl
@[simp] theorem State.setV_stackCapacity (s : State) (x : Reg) (b : Byte) : (s.setV x b).stackCapacity = s.stackCapacity := rfl
@[simp] theorem State.setV_memSize (s : State) (x : Reg) (b : Byte) : (s.setV x b).memSize = s.memSize := rfl
@[simp] theorem State.setV_readMem (s : State) (x : Reg) (b : Byte) (k : Nat) : (s.setV x b).readMem k = s.readMem k := rfl
@[simp] theorem State.setI_getV (s : State) (w : Word) (r : Reg) : (s.setI w).getV r = s.getV r := rfl
@[simp] theorem State.setI_input (s : State) (w : Word) : (s.setI w).input = s.input := rfl
@[simp] theorem State.setI_stackEntry (s : State) (w : Word) (k : Nat) : (s.setI w).stackEntry k = s.stackEntry k := rfl
@[simp] theorem State.setI_stackCapacity (s : State) (w : Word) : (s.setI w).stackCapacity = s.stackCapacity := rfl
@[simp] theorem State.setI_memSize (s : State) (w : Word) : (s.setI w).memSize = s.memSize := rfl
@[simp] theorem State.setI_readMem (s : State) (w : Word) (k : Nat) : (s.setI w).readMem k = s.readMem k := rfl
@[simp] theorem State.setPc_getV (s : State) (w : Word) (r : Reg) : (s.setPc w).getV r = s.getV r := rfl
@[simp] theorem State.setPc_input (s : State) (w : Word) : (s.setPc w).input = s.input := rfl
@[simp] theorem State.setPc_stackEntry (s : State) (w : Word) (k : Nat) : (s.setPc w).stackEntry k = s.stackEntry k := rfl
@[simp] theorem State.setPc_stackCapacity (s : State) (w : Word) : (s.setPc w).stackCapacity = s.stackCapacity := rfl
@[simp] theorem State.setPc_memSize (s : State) (w : Word) : (s.setPc w).memSize = s.memSize := rfl
@[simp] theorem State.setPc_readMem (s : State) (w : Word) (k : Nat) : (s.setPc w).readMem k = s.readMem k := rfl
@[simp] theorem State.setDt_getV (s : State) (b : Byte) (r : Reg) : (s.setDt b).getV r = s.getV r := rfl
@[simp] theorem State.setDt_input (s : State) (b : Byte) : (s.setDt b).input = s.input := rfl
@[simp] theorem State.setDt_stackEntry (s : State) (b : Byte) (k : Nat) : (s.setDt b).stackEntry k = s.stackEntry k := rfl
@[simp] theorem State.setDt_stackCapacity (s : State) (b : Byte) : (s.setDt b).stackCapacity = s.stackCapacity := rfl
@[simp] theorem State.setDt_memSize (s : State) (b : Byte) : (s.setDt b).memSize = s.memSize := rfl
@[simp] theorem State.setDt_readMem (s : State) (b : Byte) (k : Nat) : (s.setDt b).readMem k = s.readMem k := rfl
@[simp] theorem State.setSt_getV (s : State) (b : Byte) (r : Reg) : (s.setSt b).getV r = s.getV r := rfl
@[simp] theorem State.setSt_input (s : State) (b : Byte) : (s.setSt b).input = s.input := rfl
@[simp] theorem State.setSt_stackEntry (s : State) (b : Byte) (k : Nat) : (s.setSt b).stackEntry k = s.stackEntry k := rfl
@[simp] theorem State.setSt_stackCapacity (s : State) (b : Byte) : (s.setSt b).stackCapacity = s.stackCapacity := rfl
@[simp] theorem State.setSt_memSize (s : State) (b : Byte) : (s.setSt b).memSize = s.memSize := rfl
@[simp] theorem State.setSt_readMem (s : State) (b : Byte) (k : Nat) : (s.setSt b).readMem k = s.readMem k := rfl
@[simp] theorem State.writeBytes_getV (s : State) (a : Nat) (bs : List Byte) (r : Reg) : (s.writeBytes a bs).getV r = s.getV r := rfl
@[simp] theorem State.writeBytes_input (s : State) (a : Nat) (bs : List Byte) : (s.writeBytes a bs).input = s.input := rfl
@[simp] theorem State.writeBytes_stackEntry (s : State) (a : Nat) (bs : List Byte) (k : Nat) : (s.writeBytes a bs).stackEntry k = s.stackEntry k := rfl
@[simp] theorem State.writeBytes_stackCapacity (s : State) (a : Nat) (bs : List Byte) : (s.writeBytes a bs).stackCapacity = s.stackCapacity := rfl
@[simp] theorem State.writeBytes_memSize (s : State) (a : Nat) (bs : List Byte) : (s.writeBytes a bs).memSize = s.memSize := rfl
@[simp] theorem State.setFb_getV (s : State) (f : FrameBuffer) (r : Reg) : (s.setFb f).getV r = s.getV r := rfl
@[simp] theorem State.setFb_input (s : State) (f : FrameBuffer) : (s.setFb f).input = s.input := rfl
@[simp] theorem State.setFb_stackEntry (s : State) (f : FrameBuffer) (k : Nat) : (s.setFb f).stackEntry k = s.stackEntry k := rfl
@[simp] theorem State.setFb_stackCapacity (s : State) (f : FrameBuffer) : (s.setFb f).stackCapacity = s.stackCapacity := rfl
@[simp] theorem State.setFb_memSize (s : State) (f : FrameBuffer) : (s.setFb f).memSize = s.memSize := rfl
@[simp] theorem State.setFb_readMem (s : State) (f : FrameBuffer) (k : Nat) : (s.setFb f).readMem k = s.readMem k := rfl
@[simp] theorem State.pushed_getV (s : State) (w : Word) (r : Reg) : (s.pushed w).getV r = s.getV r := rfl
@[simp] theorem State.pushed_input (s : State) (w : Word) : (s.pushed w).input = s.input := rfl
@[simp] theorem State.pushed_stackCapacity (s : State) (w : Word) : (s.pushed w).stackCapacity = s.stackCapacity := rfl
@[simp] theorem State.pushed_memSize (s : State) (w : Word) : (s.pushed w).memSize = s.memSize := rfl
@[simp] theorem State.pushed_readMem (s : State) (w : Word) (k : Nat) : (s.pushed w).readMem k = s.readMem k := rfl
@[simp] theorem State.popped_getV (s : State) (r : Reg) : (s.popped).getV r = s.getV r := rfl
@[simp] theorem State.popped_input (s : State) : (s.popped).input = s.input := rfl
@[simp] theorem State.popped_stackEntry (s : State) (k : Nat) : (s.popped).stackEntry k = s.stackEntry k := rfl
@[simp] theorem State.popped_stackCapacity (s : State) : (s.popped).stackCapacity = s.stackCapacity := rfl
@[simp] theorem State.popped_memSize (s : State) : (s.popped).memSize = s.memSize := rfl
@[simp] theorem State.popped_readMem (s : State) (k : Nat) : (s.popped).readMem k = s.readMem k := rfl
@[simp] theorem State.emit_getV (s : State) (e : Event) (r : Reg) : (s.emit e).getV r = s.getV r := rfl
@[simp] theorem State.emit_input (s : State) (e : Event) : (s.emit e).input = s.input := rfl
@[simp] theorem State.emit_stackEntry (s : State) (e : Event) (k : Nat) : (s.emit e).stackEntry k = s.stackEntry k := rfl
@[simp] theorem State.emit_stackCapacity (s : State) (e : Event) : (s.emit e).stackCapacity = s.stackCapacity := rfl
@[simp] theorem State.emit_memSize (s : State) (e : Event) : (s.emit e).memSize = s.memSize := rfl
@[simp] theorem State.emit_readMem (s : State) (e : Event) (k : Nat) : (s.emit e).readMem k = s.readMem k := rfl
@[simp] theorem State.raise_getV (s : State) (f : FaultRecord) (r : Reg) : (s.raise f).getV r = s.getV r := rfl
@[simp] theorem State.raise_input (s : State) (f : FaultRecord) : (s.raise f).input = s.input := rfl
@[simp] theorem State.raise_stackEntry (s : State) (f : FaultRecord) (k : Nat) : (s.raise f).stackEntry k = s.stackEntry k := rfl
@[simp] theorem State.raise_stackCapacity (s : State) (f : FaultRecord) : (s.raise f).stackCapacity = s.stackCapacity := rfl
@[simp] theorem State.raise_memSize (s : State) (f : FaultRecord) : (s.raise f).memSize = s.memSize := rfl
@[simp] theorem State.raise_readMem (s : State) (f : FaultRecord) (k : Nat) : (s.raise f).readMem k = s.readMem k := rfl
@[simp] theorem State.nextInput_getV (s : State) (r : Reg) : (s.nextInput).getV r = s.getV r := rfl
@[simp] theorem State.nextInput_stackEntry (s : State) (k : Nat) : (s.nextInput).stackEntry k = s.stackEntry k := rfl
@[simp] theorem State.nextInput_stackCapacity (s : State) : (s.nextInput).stackCapacity = s.stackCapacity := rfl
@[simp] theorem State.nextInput_memSize (s : State) : (s.nextInput).memSize = s.memSize := rfl
@[simp] theorem State.nextInput_readMem (s : State) (k : Nat) : (s.nextInput).readMem k = s.readMem k := rfl
@[simp] theorem State.held_getV (s : State) (r : Reg) : (s.held).getV r = s.getV r := rfl
@[simp] theorem State.held_stackEntry (s : State) (k : Nat) : (s.held).stackEntry k = s.stackEntry k := rfl
@[simp] theorem State.held_stackCapacity (s : State) : (s.held).stackCapacity = s.stackCapacity := rfl
@[simp] theorem State.held_memSize (s : State) : (s.held).memSize = s.memSize := rfl
@[simp] theorem State.held_readMem (s : State) (k : Nat) : (s.held).readMem k = s.readMem k := rfl
@[simp] theorem State.updateTimers_getV (s : State) (r : Reg) : (s.updateTimers).getV r = s.getV r := rfl
@[simp] theorem State.updateTimers_input (s : State) : (s.updateTimers).input = s.input := rfl
@[simp] theorem State.updateTimers_stackEntry (s : State) (k : Nat) : (s.updateTimers).stackEntry k = s.stackEntry k := rfl
@[simp] theorem State.updateTimers_stackCapacity (s : State) : (s.updateTimers).stackCapacity = s.stackCapacity := rfl
@[simp] theorem State.updateTimers_memSize (s : State) : (s.updateTimers).memSize = s.memSize := rfl
@[simp] theorem State.updateTimers_readMem (s : State) (k : Nat) : (s.updateTimers).readMem k = s.readMem k := rfl
@[simp] theorem State.advancePc_getV (s : State) (r : Reg) : (s.advancePc).getV r = s.getV r := rfl
@[simp] theorem State.advancePc_input (s : State) : (s.advancePc).input = s.input := rfl
@[simp] theorem State.advancePc_stackEntry (s : State) (k : Nat) : (s.advancePc).stackEntry k = s.stackEntry k := rfl
@[simp] theorem State.advancePc_stackCapacity (s : State) : (s.advancePc).stackCapacity = s.stackCapacity := rfl
@[simp] theorem State.advancePc_memSize (s : State) : (s.advancePc).memSize = s.memSize := rfl
@[simp] theorem State.advancePc_readMem (s : State) (k : Nat) : (s.advancePc).readMem k = s.readMem k := rfl

end Sys2Proof.Machine
end

