-- ==== Sys2Proof/Laws/Ops.lean ====
section
/-! SUPPORT. What each shared operation can do: registers, stack, timers, checks, and the frame of a cycle. -/

namespace Sys2Proof.Machine

open Sys2Proof

/-! ## Registers -/

theorem State.getV_setV (s : State) (x r : Reg) (b : Byte) :
    (s.setV x b).getV r = if r = x then b else s.getV r := by
  simp only [State.getV, State.setV, Vector.getElem_set]
  by_cases h : r = x
  · subst h; simp
  · rw [if_neg h, if_neg]
    exact fun e => h (BitVec.eq_of_toNat_eq e.symm)

@[simp] theorem State.getV_setV_self (s : State) (x : Reg) (b : Byte) : (s.setV x b).getV x = b := by
  simp [State.getV_setV]

theorem State.getV_setV_ne (s : State) {x r : Reg} (b : Byte) (h : r ≠ x) :
    (s.setV x b).getV r = s.getV r := by
  simp [State.getV_setV, h]

/-- Registers alone decide the register file. -/
theorem State.v_ext {s t : State} (h : ∀ r, t.getV r = s.getV r) : t.v = s.v := by
  apply Vector.ext
  intro k hk
  have := h (BitVec.ofNat 4 k)
  simpa [State.getV, Nat.mod_eq_of_lt hk] using this

/-! ## Skips -/

@[simp] theorem State.skipIf_pc (s : State) (c : Bool) :
    (s.skipIf c).pc = if c then s.pc + 2 else s.pc := by
  unfold State.skipIf; split <;> rfl

/-- A skip changes nothing but `PC`. -/
theorem State.skipIf_eq (s : State) (c : Bool) :
    s.skipIf c = s.setPc (if c then s.pc + 2 else s.pc) := by
  unfold State.skipIf; split <;> rfl

/-! ## Timers -/

/-- The saturating decrement is subtraction on naturals (spec/60_exceptions.md R269). -/
@[simp] theorem toNat_countDown (t : Byte) : (countDown t).toNat = t.toNat - 1 := by
  unfold countDown
  split
  · subst_vars; rfl
  · rename_i h
    have : t.toNat ≠ 0 := fun e => h (BitVec.eq_of_toNat_eq e)
    rw [BitVec.toNat_sub]
    have := t.isLt
    simp; omega

/-! ## Memory -/

/-- The two legal sizes (spec/00_scope.md R6). -/
theorem State.memSize_cases (s : State) : s.memSize = 4095 ∨ s.memSize = 4096 := by
  unfold State.memSize; cases s.params.memSize
  · exact .inl rfl
  · exact .inr rfl

@[simp] theorem State.inBounds_iff (s : State) (a n : Nat) : s.inBounds a n = true ↔ a + n ≤ s.memSize := by
  simp [State.inBounds]

/-- What reads as what after a store that fits (spec/20_memory.md R64). -/
theorem State.readMem_writeBytes {s : State} (hs : s.memWf = true) (a b : Nat) (bytes : List Byte)
    (h : a + bytes.length ≤ s.memSize) :
    (s.writeBytes a bytes).readMem b =
      if a ≤ b ∧ b < a + bytes.length then bytes.getD (b - a) 0 else s.readMem b :=
  Memory.read_writeBytes hs a b bytes h

/-- A store that fits keeps the canonical form. -/
theorem State.memWf_writeBytes {s : State} (hs : s.memWf = true) (a : Nat) (bytes : List Byte)
    (h : a + bytes.length ≤ s.memSize) : (s.writeBytes a bytes).memWf = true :=
  Memory.wf_writeBytes hs a bytes h

@[simp] theorem State.length_readBytes (s : State) (a n : Nat) : (s.readBytes a n).length = n :=
  Memory.length_readBytes _ _ _

theorem State.getD_readBytes (s : State) (a n k : Nat) (hk : k < n) :
    (s.readBytes a n).getD k 0 = s.readMem (a + k) :=
  Memory.getD_readBytes _ _ _ _ hk

/-! ## Checks in front of a handler -/

theorem State.memCheck_ok (s : State) (site : Site) {addr : Word} {n : Nat} (k : Stage)
    (h : addr.toNat + n ≤ s.memSize) : s.memCheck site addr n k = k := by
  simp [State.memCheck, h]

theorem State.memCheck_fail (s : State) (site : Site) {addr : Word} {n : Nat} (k : Stage)
    (h : ¬ addr.toNat + n ≤ s.memSize) :
    s.memCheck site addr n k = .raised ⟨.outOfBounds site, addr⟩ := by
  simp [State.memCheck, h]

/-- What a memory check can end in. -/
theorem State.memCheck_cases (s : State) (site : Site) (addr : Word) (n : Nat) (k : Stage) :
    (addr.toNat + n ≤ s.memSize ∧ s.memCheck site addr n k = k) ∨
      (¬ addr.toNat + n ≤ s.memSize ∧ s.memCheck site addr n k = .raised ⟨.outOfBounds site, addr⟩) := by
  by_cases h : addr.toNat + n ≤ s.memSize
  · exact .inl ⟨h, s.memCheck_ok site k h⟩
  · exact .inr ⟨h, s.memCheck_fail site k h⟩

/-! ## The cycle -/

@[simp] theorem State.endCycle_done (s t : State) : s.endCycle (.done t) = t.updateTimers.nextInput := rfl

@[simp] theorem State.endCycle_raised (s : State) (f : FaultRecord) :
    s.endCycle (.raised f) = (s.advancePc.raise f).nextInput := rfl

@[simp] theorem State.endCycle_hold (s : State) : s.endCycle .hold = s.held := rfl

/-- A cycle answers a next state, whatever its handler does. -/
theorem runCycle_eq (h : State → Stage) (s : State) :
    runCycle h s = .next (s.endCycle (h s.advancePc)) := rfl

theorem runCycle_done {h : State → Stage} {s t : State} (e : h s.advancePc = .done t) :
    runCycle h s = .next t.updateTimers.nextInput := by
  simp [runCycle_eq, e]

theorem runCycle_raised {h : State → Stage} {s : State} {f : FaultRecord}
    (e : h s.advancePc = .raised f) : runCycle h s = .next (s.advancePc.raise f).nextInput := by
  simp [runCycle_eq, e]

theorem runCycle_hold {h : State → Stage} {s : State} (e : h s.advancePc = .hold) :
    runCycle h s = .next s.held := by
  simp [runCycle_eq, e]

/-- The three ways a cycle can end (spec/40_pipeline_and_dispatch.md R120). -/
theorem runCycle_cases (h : State → Stage) (s : State) :
    (∃ t, h s.advancePc = .done t ∧ runCycle h s = .next t.updateTimers.nextInput) ∨
      (∃ f, h s.advancePc = .raised f ∧ runCycle h s = .next (s.advancePc.raise f).nextInput) ∨
        (h s.advancePc = .hold ∧ runCycle h s = .next s.held) := by
  cases e : h s.advancePc with
  | done t => exact .inl ⟨t, rfl, runCycle_done e⟩
  | raised f => exact .inr (.inl ⟨f, rfl, runCycle_raised e⟩)
  | hold => exact .inr (.inr ⟨rfl, runCycle_hold e⟩)

/-- What a raise leaves, in the words of the claims (R129, R264). -/
theorem raisedOnly_of_raise (s : State) (f : FaultRecord) :
    RaisedOnly f s (s.advancePc.raise f).nextInput :=
  ⟨rfl, rfl, fun _ => rfl, rfl, fun _ => rfl, fun _ _ => rfl, ⟨rfl, rfl⟩, ⟨rfl, rfl⟩, rfl, ⟨rfl, rfl, rfl, rfl⟩, rfl⟩

/-- What the end of a completed cycle adds to what the handler did. -/
theorem timersStepped_of_done {s t : State} (hd : t.dt = s.dt) (hs : t.st = s.st) :
    TimersStepped s t.updateTimers.nextInput := by
  simp [TimersStepped, hd, hs]

/-! ## Display bytes -/

theorem FrameBuffer.byteAt_setByte (fb : FrameBuffer) (r c r' c' : Nat) (b : Byte) :
    FrameBuffer.byteAt (FrameBuffer.setByte fb r c b) r' c' =
      if r' = r ∧ c' = c ∧ r < 36 ∧ c < 9 then b else FrameBuffer.byteAt fb r' c' := by
  unfold FrameBuffer.setByte
  split
  · rename_i h
    unfold FrameBuffer.byteAt
    by_cases h' : r' < 36 ∧ c' < 9
    · simp only [dif_pos h']
      by_cases er : r' = r
      · subst er
        simp only [Vector.getElem_set_self]
        by_cases ec : c' = c
        · subst ec; simp [h]
        · rw [Vector.getElem_set_ne _ _ (by omega), if_neg (by omega)]
      · rw [if_neg (by omega)]
        rw [Vector.getElem_set_ne _ _ (by omega)]
    · rw [dif_neg h', dif_neg h', if_neg (by omega)]
  · rw [if_neg (by omega)]

/-- The bytes alone decide the buffer. -/
theorem FrameBuffer.ext_bytes {f g : FrameBuffer}
    (h : ∀ r c, FrameBuffer.byteAt f r c = FrameBuffer.byteAt g r c) : f = g := by
  apply Vector.ext
  intro r hr
  apply Vector.ext
  intro c hc
  simpa [FrameBuffer.byteAt, hr, hc] using h r c

@[simp] theorem FrameBuffer.byteAt_cleared (r c : Nat) : FrameBuffer.byteAt FrameBuffer.cleared r c = 0 := by
  unfold FrameBuffer.byteAt FrameBuffer.cleared
  split <;> simp

/-! ## Stack -/

/-- An entry after a push: the new one at the old `SP`, the others as before (spec/10_state.md R29). -/
theorem State.stackEntry_pushed (s : State) (w : Word) (k : Nat) :
    (s.pushed w).stackEntry k = if k = s.sp ∧ s.sp < s.stack.length then w else s.stackEntry k := by
  simp only [State.stackEntry, State.pushed, List.getD_eq_getElem?_getD, List.getElem?_set]
  by_cases hk : s.sp = k
  · subst hk
    by_cases hl : s.sp < s.stack.length
    · simp [hl]
    · simp [hl]
  · rw [if_neg hk, if_neg (by omega)]

end Sys2Proof.Machine
end

