-- ==== Sys2Proof/Laws/Operands.lean ====
section
/-! SUPPORT. What the operand forms and the flag computations do. -/

namespace Sys2Proof.Machine

open Sys2Proof

/-! ## Immediates -/

@[simp] theorem toNat_zextAddr (a : Addr12) : (zextAddr a).toNat = a.toNat := by
  simp [zextAddr]; have := a.isLt; omega

@[simp] theorem toNat_zextByte (b : Byte) : (zextByte b).toNat = b.toNat := by
  simp [zextByte]; have := b.isLt; omega

@[simp] theorem toNat_zextKey (k : Nibble) : (zextKey k).toNat = k.toNat := by
  simp [zextKey]; have := k.isLt; omega

/-! ## Register ranges -/

@[simp] theorem State.length_regList (s : State) (n : Nat) : (s.regList n).length = n := by
  induction n with
  | zero => rfl
  | succ n ih => simp [State.regList, ih]

theorem State.getD_regList (s : State) (n k : Nat) (hk : k < n) :
    (s.regList n).getD k 0 = s.getV (BitVec.ofNat 4 k) := by
  induction n with
  | zero => omega
  | succ n ih =>
    simp only [State.regList, List.getD_eq_getElem?_getD] at ih ⊢
    by_cases h : k < n
    · rw [List.getElem?_append_left (by simpa using h)]; exact ih h
    · obtain rfl : k = n := by omega
      simp

/-- The state that `LD_VX_I` loads into differs in registers only. -/
theorem State.loadRegs_eq (s : State) (a n : Nat) :
    s.loadRegs a n = { s with v := (s.loadRegs a n).v } := by
  induction n with
  | zero => rfl
  | succ n ih => rw [State.loadRegs, ih]; rfl

@[simp] theorem State.loadRegs_mem (s : State) (a n : Nat) : (s.loadRegs a n).mem = s.mem := by
  rw [State.loadRegs_eq]

/-- Each register of the range takes its byte, the others keep their value (spec/43_index_memory.md R205). -/
theorem State.getV_loadRegs (s : State) (a n : Nat) (hn : n ≤ 16) (r : Reg) :
    (s.loadRegs a n).getV r =
      if r.toNat < n then s.readMem (a + r.toNat) else s.getV r := by
  induction n with
  | zero => rfl
  | succ n ih =>
    rw [State.loadRegs, State.getV_setV, ih (by omega)]
    have hr : r = BitVec.ofNat 4 n ↔ r.toNat = n := by
      rw [← BitVec.toNat_inj, BitVec.toNat_ofNat, Nat.mod_eq_of_lt (by omega)]
    by_cases h : r.toNat = n
    · rw [if_pos (hr.2 h), if_pos (by omega), h]
    · rw [if_neg (fun e => h (hr.1 e))]
      by_cases h' : r.toNat < n
      · rw [if_pos h', if_pos (by omega)]
      · rw [if_neg h', if_neg (by omega)]

/-! ## Checks -/

theorem Stage.digitCheck_cases (d : Byte) (k : Stage) :
    (d.toNat ≤ 15 ∧ Stage.digitCheck d k = k) ∨
      (¬ d.toNat ≤ 15 ∧ Stage.digitCheck d k = .raised ⟨.outOfBounds .fontDigit, zextByte d⟩) := by
  unfold Stage.digitCheck lastDigit
  split
  · exact .inl ⟨by assumption, rfl⟩
  · exact .inr ⟨by assumption, rfl⟩

theorem Stage.keyCheck_cases (d : Byte) (k : Stage) :
    (d.toNat ≤ 15 ∧ Stage.keyCheck d k = k) ∨
      (¬ d.toNat ≤ 15 ∧ Stage.keyCheck d k = .raised ⟨.outOfBounds .keyIndex, zextByte d⟩) := by
  unfold Stage.keyCheck lastKey
  split
  · exact .inl ⟨by assumption, rfl⟩
  · exact .inr ⟨by assumption, rfl⟩

/-! ## Flags -/

@[simp] theorem toNat_addResult (a b : Byte) : (addResult a b).toNat = (a.toNat + b.toNat) % 256 := by
  simp [addResult]

@[simp] theorem toNat_subResult (a b : Byte) : (subResult a b).toNat = (a.toNat + 256 - b.toNat) % 256 := by
  simp [subResult]

@[simp] theorem toNat_flagByte (c : Bool) : (flagByte c).toNat = if c then 1 else 0 := by
  cases c <;> rfl

/-- Result first, flag last: VF ends as the flag whatever `x` is (spec/42_alu.md R183). -/
theorem State.getV_setResultFlag (s : State) (x r : Reg) (b : Byte) (c : Bool) :
    (s.setResultFlag x b c).getV r =
      if r = flagReg then flagByte c else if r = x then b else s.getV r := by
  simp [State.setResultFlag, State.getV_setV]

/-- Only registers change. -/
theorem State.setResultFlag_eq (s : State) (x : Reg) (b : Byte) (c : Bool) :
    s.setResultFlag x b c = { s with v := (s.setResultFlag x b c).v } := rfl

end Sys2Proof.Machine
end

