-- ==== Sys2Proof/Laws/Raster.lean ====
section
/-! SUPPORT. The compositor pixel by pixel (spec/44_display.md R222, R223, spec/10_state.md R38). -/

namespace Sys2Proof.Machine

open Sys2Proof

/-- Whether a sprite byte drawn at `x` has a set bit on internal pixel column `p` (R222): bit `7 - j` of
the byte lands on column `x + j`. -/
def spritePixel (x : Nat) (b : Byte) (p : Nat) : Bool :=
  decide (x ≤ p) && decide (p < x + 8) && b.getLsbD (7 - (p - x))

/-! ## Bits of a window -/

theorem getLsbD_highByte (w : Word) (j : Nat) (hj : j < 8) : (highByte w).getLsbD j = w.getLsbD (8 + j) := by
  simp [highByte, hj]

theorem getLsbD_lowByte (w : Word) (j : Nat) (hj : j < 8) : (lowByte w).getLsbD j = w.getLsbD j := by
  simp [lowByte, hj]

theorem getLsbD_wordOfBytes (h l : Byte) (j : Nat) (hj : j < 16) :
    (wordOfBytes h l).getLsbD j = if 8 ≤ j then h.getLsbD (j - 8) else l.getLsbD j := by
  simp only [wordOfBytes, BitVec.getLsbD_or, BitVec.getLsbD_shiftLeft, BitVec.getLsbD_setWidth]
  by_cases h8 : 8 ≤ j
  · have : ¬ j < 8 := by omega
    simp [hj, h8, this]
    intro; omega
  · have : j < 8 := by omega
    simp [h8, this, hj]

/-- Where a sprite bit stands in the window. -/
theorem getLsbD_spriteWindow (x : Nat) (b : Byte) (j : Nat) (hj : j < 16) :
    (spriteWindow x b).getLsbD j = (decide (8 - x % 8 ≤ j) && b.getLsbD (j - (8 - x % 8))) := by
  simp only [spriteWindow, BitVec.getLsbD_shiftLeft, BitVec.getLsbD_setWidth]
  by_cases h : 8 - x % 8 ≤ j
  · have h1 : ¬ j < 8 - x % 8 := by omega
    have h2 : j - (8 - x % 8) < 16 := by omega
    simp [hj, h, h1, h2]
  · have h1 : j < 8 - x % 8 := by omega
    simp [hj, h, h1]

/-! ## One row -/

/-- The bytes after a window is written back. -/
theorem byteAt_putWindow (fb : FrameBuffer) {x r : Nat} (w : Word) (hx : x ≤ 63) (hr : r ≤ 35) (r' c : Nat) :
    FrameBuffer.byteAt (putWindow fb x r w) r' c =
      if r' = r ∧ c = x / 8 then highByte w
      else if r' = r ∧ c = x / 8 + 1 then lowByte w
      else FrameBuffer.byteAt fb r' c := by
  unfold putWindow
  rw [FrameBuffer.byteAt_setByte, FrameBuffer.byteAt_setByte]
  by_cases h1 : r' = r ∧ c = x / 8 + 1
  · rw [if_pos (by omega), if_neg (by omega), if_pos h1]
  · rw [if_neg (by omega)]
    by_cases h2 : r' = r ∧ c = x / 8
    · rw [if_pos (by omega), if_pos h2]
    · rw [if_neg (by omega), if_neg h2, if_neg h1]

/-- The pixels after one sprite row: XOR on that row, nothing elsewhere (R222). -/
theorem pixel_blitRow (fb : FrameBuffer) {x r : Nat} (b : Byte) (hx : x ≤ 63) (hr : r ≤ 35) (p q : Nat) :
    FrameBuffer.pixel (blitRow fb x r b) p q =
      (FrameBuffer.pixel fb p q != (decide (q = r) && spritePixel x b p)) := by
  unfold FrameBuffer.pixel blitRow
  rw [byteAt_putWindow fb _ hx hr]
  have hp := Nat.mod_lt p (show 8 > 0 by omega)
  by_cases hq : q = r
  · subst hq
    by_cases h1 : p / 8 = x / 8
    · rw [if_pos ⟨rfl, h1⟩, getLsbD_highByte _ _ (by omega), BitVec.getLsbD_xor,
        getLsbD_spriteWindow _ _ _ (by omega), oldWindow, getLsbD_wordOfBytes _ _ _ (by omega),
        if_pos (by omega), show 8 + (7 - p % 8) - 8 = 7 - p % 8 by omega, h1]
      have e : 8 + (7 - p % 8) - (8 - x % 8) = 7 + x % 8 - p % 8 := by omega
      rw [e, decide_eq_true (by omega : 8 - x % 8 ≤ 8 + (7 - p % 8))]
      by_cases hpx : x ≤ p
      · have : 7 + x % 8 - p % 8 = 7 - (p - x) := by omega
        have h8 : p < x + 8 := by omega
        simp [spritePixel, hpx, h8, this, bne]
      · simp [spritePixel, hpx, BitVec.getLsbD_of_ge b (7 + x % 8 - p % 8) (by omega)]
    · rw [if_neg (by omega)]
      by_cases h2 : p / 8 = x / 8 + 1
      · rw [if_pos ⟨rfl, h2⟩, getLsbD_lowByte _ _ (by omega), BitVec.getLsbD_xor,
          getLsbD_spriteWindow _ _ _ (by omega), oldWindow, getLsbD_wordOfBytes _ _ _ (by omega),
          if_neg (by omega), h2]
        have hpx : x ≤ p := by omega
        by_cases h8 : p < x + 8
        · have : 7 - p % 8 - (8 - x % 8) = 7 - (p - x) := by omega
          rw [this, decide_eq_true (by omega : 8 - x % 8 ≤ 7 - p % 8)]
          simp [spritePixel, hpx, h8, bne]
        · have : ¬ 8 - x % 8 ≤ 7 - p % 8 := by omega
          simp [spritePixel, h8, this]
      · rw [if_neg (by omega)]
        have : ¬ (x ≤ p ∧ p < x + 8) := by omega
        by_cases hpx : x ≤ p
        · have h8 : ¬ p < x + 8 := by omega
          simp [spritePixel, h8]
        · simp [spritePixel, hpx]
  · rw [if_neg (by omega), if_neg (by omega)]
    simp [hq]

/-! ## The whole sprite -/

/-- The pixels after a blit: XOR with the sprite, row `q - y` of it on row `q` (R222). -/
theorem pixel_blit (fb : FrameBuffer) {x y : Nat} (bs : List Byte) (hx : x ≤ 63) (hy : y + bs.length ≤ 36)
    (p q : Nat) :
    FrameBuffer.pixel (blit fb x y bs) p q =
      (FrameBuffer.pixel fb p q !=
        (decide (y ≤ q ∧ q < y + bs.length) && spritePixel x (bs.getD (q - y) 0) p)) := by
  induction bs generalizing fb y with
  | nil =>
    have : ¬ (y ≤ q ∧ q < y) := by omega
    simp [blit, this]
  | cons b bs ih =>
    simp only [List.length_cons] at hy ⊢
    rw [blit, ih _ (by omega), pixel_blitRow fb b hx (by omega)]
    by_cases hq : q = y
    · subst hq
      have h1 : ¬ (q + 1 ≤ q ∧ q < q + 1 + bs.length) := by omega
      have h2 : q ≤ q ∧ q < q + (bs.length + 1) := by omega
      simp
    · by_cases hin : y + 1 ≤ q ∧ q < y + 1 + bs.length
      · have h2 : y ≤ q ∧ q < y + (bs.length + 1) := by omega
        obtain ⟨k, hk⟩ : ∃ k, q - y = k + 1 := ⟨q - y - 1, by omega⟩
        have hk' : q - (y + 1) = k := by omega
        simp only [decide_eq_true hin, decide_eq_true h2, hk, hk', List.getD_cons_succ, hq,
          decide_false, Bool.false_and, Bool.true_and, Bool.bne_false]
      · have h2 : ¬ (y ≤ q ∧ q < y + (bs.length + 1)) := by omega
        simp only [decide_eq_false hin, decide_eq_false h2, hq, decide_false, Bool.false_and,
          Bool.bne_false]

/-- A row collides exactly when the sprite sets a bit where a pixel was set (R223). -/
theorem rowCollides_iff (fb : FrameBuffer) (x r : Nat) (b : Byte) :
    rowCollides fb x r b = true ↔ ∃ p, FrameBuffer.pixel fb p r = true ∧ spritePixel x b p = true := by
  have key : rowCollides fb x r b = true ↔
      ∃ j, j < 16 ∧ (oldWindow fb x r).getLsbD j = true ∧ (spriteWindow x b).getLsbD j = true := by
    unfold rowCollides windowCollides
    rw [bne_iff_ne, ne_eq, ← not_iff_not, not_not]
    constructor
    · rintro h ⟨j, hj, ho, hs⟩
      have := congrArg (fun w => w.getLsbD j) h
      simp [ho, hs] at this
    · intro h
      apply BitVec.eq_of_getLsbD_eq
      intro j hj
      have := fun ho hs => h ⟨j, hj, ho, hs⟩
      simp only [BitVec.getLsbD_and, BitVec.getLsbD_xor]
      cases ho : (oldWindow fb x r).getLsbD j <;> cases hs : (spriteWindow x b).getLsbD j <;> simp_all
  rw [key]
  constructor
  · rintro ⟨j, hj, ho, hs⟩
    rw [getLsbD_spriteWindow _ _ _ hj, Bool.and_eq_true, decide_eq_true_eq] at hs
    obtain ⟨h1, h2⟩ := hs
    have hlt : j - (8 - x % 8) < 8 := by
      by_contra hc
      rw [BitVec.getLsbD_of_ge _ _ (by omega)] at h2
      exact Bool.noConfusion h2
    refine ⟨x + (7 - (j - (8 - x % 8))), ?_, ?_⟩
    · rw [oldWindow, getLsbD_wordOfBytes _ _ _ hj] at ho
      unfold FrameBuffer.pixel
      by_cases h8 : 8 ≤ j
      · rw [if_pos h8] at ho
        rw [show (x + (7 - (j - (8 - x % 8)))) / 8 = x / 8 by omega,
          show 7 - (x + (7 - (j - (8 - x % 8)))) % 8 = j - 8 by omega]
        exact ho
      · rw [if_neg h8] at ho
        rw [show (x + (7 - (j - (8 - x % 8)))) / 8 = x / 8 + 1 by omega,
          show 7 - (x + (7 - (j - (8 - x % 8)))) % 8 = j by omega]
        exact ho
    · have e : 7 - (x + (7 - (j - (8 - x % 8))) - x) = j - (8 - x % 8) := by omega
      simp only [spritePixel, e, h2, Bool.and_true, Bool.and_eq_true, decide_eq_true_eq]
      omega
  · rintro ⟨p, hp, hs⟩
    simp only [spritePixel, Bool.and_eq_true, decide_eq_true_eq] at hs
    obtain ⟨⟨h1, h2⟩, h3⟩ := hs
    refine ⟨15 - x % 8 - (p - x), by omega, ?_, ?_⟩
    · rw [oldWindow, getLsbD_wordOfBytes _ _ _ (by omega)]
      unfold FrameBuffer.pixel at hp
      by_cases h8 : 8 ≤ 15 - x % 8 - (p - x)
      · rw [if_pos h8, show 15 - x % 8 - (p - x) - 8 = 7 - p % 8 by omega,
          show x / 8 = p / 8 by omega]
        exact hp
      · rw [if_neg h8, show 15 - x % 8 - (p - x) = 7 - p % 8 by omega,
          show x / 8 + 1 = p / 8 by omega]
        exact hp
    · rw [getLsbD_spriteWindow _ _ _ (by omega), decide_eq_true (by omega),
        show 15 - x % 8 - (p - x) - (8 - x % 8) = 7 - (p - x) by omega, h3]
      rfl

/-- A blit collides exactly when some set bit of the sprite lands on a set pixel, margin included (R223):
the rows are different rows of the buffer, so it is the buffer before the draw that counts. -/
theorem blitCollides_iff (fb : FrameBuffer) {x y : Nat} (bs : List Byte) (hx : x ≤ 63)
    (hy : y + bs.length ≤ 36) :
    blitCollides fb x y bs = true ↔
      ∃ k p, k < bs.length ∧ FrameBuffer.pixel fb p (y + k) = true ∧ spritePixel x (bs.getD k 0) p = true := by
  induction bs generalizing fb y with
  | nil => simp [blitCollides]
  | cons b bs ih =>
    simp only [List.length_cons] at hy ⊢
    rw [blitCollides, Bool.or_eq_true, rowCollides_iff fb x _ b, ih _ (by omega)]
    constructor
    · rintro (⟨p, hp, hs⟩ | ⟨k, p, hk, hp, hs⟩)
      · exact ⟨0, p, by omega, hp, hs⟩
      · refine ⟨k + 1, p, by omega, ?_, by simpa using hs⟩
        rw [pixel_blitRow fb b hx (by omega)] at hp
        simpa [show y + 1 + k = y + (k + 1) by omega] using hp
    · rintro ⟨k, p, hk, hp, hs⟩
      cases k with
      | zero => exact .inl ⟨p, hp, by simpa using hs⟩
      | succ k =>
        refine .inr ⟨k, p, by omega, ?_, by simpa using hs⟩
        rw [pixel_blitRow fb b hx (by omega)]
        simpa [show y + 1 + k = y + (k + 1) by omega] using hp

/-- The bounds of the compositor in the spec's own numbers (R224). -/
theorem blitInBounds_iff (x y n : Nat) : blitInBounds x y n = true ↔ n = 0 ∨ (x ≤ 63 ∧ y + n ≤ 36) := by
  simp only [blitInBounds, Bool.or_eq_true, Bool.and_eq_true, decide_eq_true_eq]
  unfold fbCols fbRows
  omega

/-- What the display check can end in. -/
theorem Stage.blitCheck_cases (x y : Byte) (n : Nat) (k : Stage) :
    ((n = 0 ∨ (x.toNat ≤ 63 ∧ y.toNat + n ≤ 36)) ∧ Stage.blitCheck x y n k = k) ∨
      (¬ (n = 0 ∨ (x.toNat ≤ 63 ∧ y.toNat + n ≤ 36)) ∧
        Stage.blitCheck x y n k = .raised ⟨.outOfBounds .display, wordOfBytes y x⟩) := by
  unfold Stage.blitCheck
  split
  · exact .inl ⟨(blitInBounds_iff _ _ _).1 (by assumption), rfl⟩
  · exact .inr ⟨fun h => absurd ((blitInBounds_iff _ _ _).2 h) (by assumption), rfl⟩

end Sys2Proof.Machine
end

