-- ==== Sys2Proof/Laws/Exec.lean ====
section
/-! SUPPORT. What each instruction's cycle answers, as one equation, so that no later proof unfolds a meaning;
and the frames of the shared endings. -/

namespace Sys2Proof.Machine

open Sys2Proof

/-! ## Frames of a completed cycle -/

@[simp] theorem getV_endOfCycle (t : State) (r : Reg) : t.updateTimers.nextInput.getV r = t.getV r := rfl
@[simp] theorem getV_advancePc (s : State) (r : Reg) : s.advancePc.getV r = s.getV r := rfl
@[simp] theorem stackCapacity_advancePc (s : State) : s.advancePc.stackCapacity = s.stackCapacity := rfl

/-- A cycle whose handler left everything but `V` and `PC` alone. -/
theorem onlyRegsAndPc_of {s t : State} (h : t = { s with v := t.v, pc := t.pc }) :
    OnlyRegsAndPc s t.updateTimers.nextInput := by
  rw [h]
  exact ⟨rfl, rfl, rfl, fun _ => rfl, fun _ _ => rfl, ⟨rfl, rfl⟩, timersStepped_of_done rfl rfl,
    ⟨rfl, rfl, rfl, rfl⟩, rfl⟩

theorem onlyRegsAndPc_setV (s : State) (x : Reg) (b : Byte) :
    OnlyRegsAndPc s (s.advancePc.setV x b).updateTimers.nextInput := onlyRegsAndPc_of rfl

theorem onlyRegsAndPc_setResultFlag (s : State) (x : Reg) (b : Byte) (c : Bool) :
    OnlyRegsAndPc s (s.advancePc.setResultFlag x b c).updateTimers.nextInput := onlyRegsAndPc_of rfl

theorem onlyRegsAndPc_setPc (s : State) (w : Word) :
    OnlyRegsAndPc s (s.advancePc.setPc w).updateTimers.nextInput := onlyRegsAndPc_of rfl

theorem onlyRegsAndPc_skipIf (s : State) (c : Bool) :
    OnlyRegsAndPc s (s.advancePc.skipIf c).updateTimers.nextInput := by
  rw [State.skipIf_eq]; exact onlyRegsAndPc_setPc _ _

theorem onlyRegsAndPc_loadRegs (s : State) (a n : Nat) :
    OnlyRegsAndPc s (s.advancePc.loadRegs a n).updateTimers.nextInput := by
  rw [State.loadRegs_eq]; exact onlyRegsAndPc_of rfl

theorem sameRegsBut_setV (s : State) (x : Reg) (b : Byte) :
    SameRegsBut (· = x) s (s.advancePc.setV x b).updateTimers.nextInput := fun r h => by
  rw [getV_endOfCycle, State.getV_setV_ne _ _ h, getV_advancePc]

theorem sameRegsBut_setResultFlag (s : State) (x : Reg) (b : Byte) (c : Bool) :
    SameRegsBut (fun r => r = x ∨ r = 15) s (s.advancePc.setResultFlag x b c).updateTimers.nextInput :=
  fun r h => by
    rw [getV_endOfCycle, State.getV_setResultFlag]
    exact (if_neg (fun e => h (.inr e))).trans (if_neg (fun e => h (.inl e)))

theorem sameRegs_skipIf (s : State) (c : Bool) :
    SameRegs s (s.advancePc.skipIf c).updateTimers.nextInput := by
  rw [State.skipIf_eq]; exact fun _ => rfl

/-! ## Flow -/

theorem exec_sys (nnn : Addr12) (s : State) :
    exec (.sys nnn) s = .next (s.endCycle (unknownOpcode (wordNNN 0x0 nnn) s.advancePc)) := rfl

theorem exec_ret {s : State} (h : s.sp ≠ 0) : exec .ret s =
    .next (s.advancePc.popped.setPc s.topOfStack).updateTimers.nextInput := by
  simp only [exec, execRet]
  exact runCycle_done (if_neg h)

theorem exec_ret_empty {s : State} (h : s.sp = 0) : exec .ret s =
    .next (s.advancePc.raise ⟨.stackUnderflow, 0⟩).nextInput := by
  simp only [exec, execRet]
  exact runCycle_raised (if_pos h)

theorem exec_jp (nnn : Addr12) (s : State) : exec (.jp nnn) s =
    .next (s.advancePc.setPc (zextAddr nnn)).updateTimers.nextInput := rfl

theorem exec_call (nnn : Addr12) {s : State} (h : ¬ s.stackCapacity ≤ s.sp) : exec (.call nnn) s =
    .next ((s.advancePc.pushed (s.pc + 2)).setPc (zextAddr nnn)).updateTimers.nextInput := by
  simp only [exec, execCall]
  exact runCycle_done (if_neg h)

theorem exec_call_full (nnn : Addr12) {s : State} (h : s.stackCapacity ≤ s.sp) : exec (.call nnn) s =
    .next (s.advancePc.raise ⟨.stackOverflow, zextAddr nnn⟩).nextInput := by
  simp only [exec, execCall]
  exact runCycle_raised (if_pos h)

theorem exec_seByte (x : Reg) (kk : Byte) (s : State) : exec (.seByte x kk) s =
    .next (s.advancePc.skipIf (s.getV x == kk)).updateTimers.nextInput := rfl

theorem exec_sneByte (x : Reg) (kk : Byte) (s : State) : exec (.sneByte x kk) s =
    .next (s.advancePc.skipIf (s.getV x != kk)).updateTimers.nextInput := rfl

theorem exec_seReg (x y : Reg) (s : State) : exec (.seReg x y) s =
    .next (s.advancePc.skipIf (s.getV x == s.getV y)).updateTimers.nextInput := rfl

theorem exec_sneReg (x y : Reg) (s : State) : exec (.sneReg x y) s =
    .next (s.advancePc.skipIf (s.getV x != s.getV y)).updateTimers.nextInput := rfl

theorem exec_ldV0 (nnn : Addr12) (s : State) : exec (.ldV0 nnn) s =
    .next (s.advancePc.setPc (zextAddr nnn + zextByte (s.getV 0))).updateTimers.nextInput := rfl

/-! ## Arithmetic and logic -/

theorem exec_ldByte (x : Reg) (kk : Byte) (s : State) : exec (.ldByte x kk) s =
    .next (s.advancePc.setV x kk).updateTimers.nextInput := rfl

theorem exec_addByte (x : Reg) (kk : Byte) (s : State) : exec (.addByte x kk) s =
    .next (s.advancePc.setV x (addResult (s.getV x) kk)).updateTimers.nextInput := rfl

theorem exec_ldVxVy (x y : Reg) (s : State) : exec (.ldVxVy x y) s =
    .next (s.advancePc.setV x (s.getV y)).updateTimers.nextInput := rfl

theorem exec_or (x y : Reg) (s : State) : exec (.or x y) s =
    .next (s.advancePc.setV x (s.getV x ||| s.getV y)).updateTimers.nextInput := rfl

theorem exec_and (x y : Reg) (s : State) : exec (.and x y) s =
    .next (s.advancePc.setV x (s.getV x &&& s.getV y)).updateTimers.nextInput := rfl

theorem exec_xor (x y : Reg) (s : State) : exec (.xor x y) s =
    .next (s.advancePc.setV x (s.getV x ^^^ s.getV y)).updateTimers.nextInput := rfl

theorem exec_add (x y : Reg) (s : State) : exec (.add x y) s =
    .next (s.advancePc.setResultFlag x (addResult (s.getV x) (s.getV y))
      (addCarry (s.getV x) (s.getV y))).updateTimers.nextInput := rfl

theorem exec_sub (x y : Reg) (s : State) : exec (.sub x y) s =
    .next (s.advancePc.setResultFlag x (subResult (s.getV x) (s.getV y))
      (subNoBorrow (s.getV x) (s.getV y))).updateTimers.nextInput := rfl

theorem exec_shr (x : Reg) (s : State) : exec (.shr x) s =
    .next (s.advancePc.setResultFlag x (shrResult (s.getV x)) (shrFlag (s.getV x))).updateTimers.nextInput := rfl

theorem exec_subn (x y : Reg) (s : State) : exec (.subn x y) s =
    .next (s.advancePc.setResultFlag x (subResult (s.getV y) (s.getV x))
      (subNoBorrow (s.getV y) (s.getV x))).updateTimers.nextInput := rfl

theorem exec_shl (x : Reg) (s : State) : exec (.shl x) s =
    .next (s.advancePc.setResultFlag x (shlResult (s.getV x)) (shlFlag (s.getV x))).updateTimers.nextInput := rfl

theorem exec_rnd (x : Reg) (kk : Byte) (s : State) : exec (.rnd x kk) s =
    .next (s.advancePc.setV x (s.input.rnd &&& kk)).updateTimers.nextInput := rfl

/-! ## Index register and memory -/

theorem exec_ldI (nnn : Addr12) (s : State) : exec (.ldI nnn) s =
    .next (s.advancePc.setI (zextAddr nnn)).updateTimers.nextInput := rfl

theorem exec_addIVx (x : Reg) (s : State) : exec (.addIVx x) s =
    .next (s.advancePc.setI (s.i + zextByte (s.getV x))).updateTimers.nextInput := rfl

theorem exec_ldFVx {x : Reg} {s : State} (h : (s.getV x).toNat ≤ 15) : exec (.ldFVx x) s =
    .next (s.advancePc.setI (glyphAddress (s.getV x))).updateTimers.nextInput := by
  simp only [exec, execLdFVx]
  exact runCycle_done (if_pos h)

theorem exec_ldFVx_above {x : Reg} {s : State} (h : ¬ (s.getV x).toNat ≤ 15) : exec (.ldFVx x) s =
    .next (s.advancePc.raise ⟨.outOfBounds .fontDigit, zextByte (s.getV x)⟩).nextInput := by
  simp only [exec, execLdFVx]
  exact runCycle_raised (if_neg h)

theorem exec_ldBVx (x : Reg) {s : State} (h : s.i.toNat + 3 ≤ s.memSize) : exec (.ldBVx x) s =
    .next (s.advancePc.writeBytes s.i.toNat (decimalDigits (s.getV x))).updateTimers.nextInput := by
  simp only [exec, execLdBVx]
  exact runCycle_done (State.memCheck_ok _ _ _ h)

theorem exec_ldBVx_out (x : Reg) {s : State} (h : ¬ s.i.toNat + 3 ≤ s.memSize) : exec (.ldBVx x) s =
    .next (s.advancePc.raise ⟨.outOfBounds .data, s.i⟩).nextInput := by
  simp only [exec, execLdBVx]
  exact runCycle_raised (State.memCheck_fail _ _ _ h)

theorem exec_ldIVx (x : Reg) {s : State} (h : s.i.toNat + (x.toNat + 1) ≤ s.memSize) : exec (.ldIVx x) s =
    .next (s.advancePc.writeBytes s.i.toNat (s.advancePc.regRange x)).updateTimers.nextInput := by
  simp only [exec, execLdIVx]
  exact runCycle_done (State.memCheck_ok _ _ _ h)

theorem exec_ldIVx_out (x : Reg) {s : State} (h : ¬ s.i.toNat + (x.toNat + 1) ≤ s.memSize) :
    exec (.ldIVx x) s = .next (s.advancePc.raise ⟨.outOfBounds .data, s.i⟩).nextInput := by
  simp only [exec, execLdIVx]
  exact runCycle_raised (State.memCheck_fail _ _ _ h)

theorem exec_ldVxI (x : Reg) {s : State} (h : s.i.toNat + (x.toNat + 1) ≤ s.memSize) : exec (.ldVxI x) s =
    .next (s.advancePc.loadRegs s.i.toNat (x.toNat + 1)).updateTimers.nextInput := by
  simp only [exec, execLdVxI]
  exact runCycle_done (State.memCheck_ok _ _ _ h)

theorem exec_ldVxI_out (x : Reg) {s : State} (h : ¬ s.i.toNat + (x.toNat + 1) ≤ s.memSize) :
    exec (.ldVxI x) s = .next (s.advancePc.raise ⟨.outOfBounds .data, s.i⟩).nextInput := by
  simp only [exec, execLdVxI]
  exact runCycle_raised (State.memCheck_fail _ _ _ h)

/-! ## Display -/

theorem exec_cls (s : State) : exec .cls s =
    .next ((s.advancePc.setFb FrameBuffer.cleared).emit .presentClear).updateTimers.nextInput := rfl

/-- DRW whose sprite and place fit. -/
theorem exec_drw {x y : Reg} {n : Nibble} {s : State} (hi : s.i.toNat + n.toNat ≤ s.memSize)
    (hb : blitInBounds (s.getV x).toNat (s.getV y).toNat n.toNat = true) : exec (.drw x y n) s =
    .next (s.advancePc.drawn (s.getV x) (s.getV y) (s.sprite n)).updateTimers.nextInput := by
  simp only [exec, execDrw]
  exact runCycle_done ((State.memCheck_ok _ _ _ hi).trans (if_pos hb))

theorem exec_drw_sprite {x y : Reg} {n : Nibble} {s : State} (hi : ¬ s.i.toNat + n.toNat ≤ s.memSize) :
    exec (.drw x y n) s = .next (s.advancePc.raise ⟨.outOfBounds .sprite, s.i⟩).nextInput := by
  simp only [exec, execDrw]
  exact runCycle_raised (State.memCheck_fail _ _ _ hi)

theorem exec_drw_display {x y : Reg} {n : Nibble} {s : State} (hi : s.i.toNat + n.toNat ≤ s.memSize)
    (hb : ¬ blitInBounds (s.getV x).toNat (s.getV y).toNat n.toNat = true) : exec (.drw x y n) s =
    .next (s.advancePc.raise ⟨.outOfBounds .display, wordOfBytes (s.getV y) (s.getV x)⟩).nextInput := by
  simp only [exec, execDrw]
  exact runCycle_raised ((State.memCheck_ok _ _ _ hi).trans (if_neg hb))

/-! ## Keypad and timers -/

theorem exec_skp {x : Reg} {s : State} (h : (s.getV x).toNat ≤ 15) : exec (.skp x) s =
    .next (s.advancePc.skipIf (s.keyDown (s.getV x))).updateTimers.nextInput := by
  simp only [exec, execSkp]
  exact runCycle_done (if_pos h)

theorem exec_skp_above {x : Reg} {s : State} (h : ¬ (s.getV x).toNat ≤ 15) : exec (.skp x) s =
    .next (s.advancePc.raise ⟨.outOfBounds .keyIndex, zextByte (s.getV x)⟩).nextInput := by
  simp only [exec, execSkp]
  exact runCycle_raised (if_neg h)

theorem exec_sknp {x : Reg} {s : State} (h : (s.getV x).toNat ≤ 15) : exec (.sknp x) s =
    .next (s.advancePc.skipIf (!s.keyDown (s.getV x))).updateTimers.nextInput := by
  simp only [exec, execSknp]
  exact runCycle_done (if_pos h)

theorem exec_sknp_above {x : Reg} {s : State} (h : ¬ (s.getV x).toNat ≤ 15) : exec (.sknp x) s =
    .next (s.advancePc.raise ⟨.outOfBounds .keyIndex, zextByte (s.getV x)⟩).nextInput := by
  simp only [exec, execSknp]
  exact runCycle_raised (if_neg h)

theorem exec_ldVxDt (x : Reg) (s : State) : exec (.ldVxDt x) s =
    .next (s.advancePc.setV x s.dt).updateTimers.nextInput := rfl

theorem exec_wKey (x : Reg) {s : State} {k : Nibble} (h : s.input.keyReport = some k) : exec (.wKey x) s =
    .next (s.advancePc.setV x (zextKey k)).updateTimers.nextInput := by
  simp only [exec, execWKey]
  exact runCycle_done (by unfold waitKey; rw [show s.advancePc.input = s.input from rfl, h])

theorem exec_wKey_hold (x : Reg) {s : State} (h : s.input.keyReport = none) :
    exec (.wKey x) s = .next s.held := by
  simp only [exec, execWKey]
  exact runCycle_hold (by unfold waitKey; rw [show s.advancePc.input = s.input from rfl, h])

theorem exec_ldDtVx (x : Reg) (s : State) : exec (.ldDtVx x) s =
    .next (s.advancePc.setDt (s.getV x)).updateTimers.nextInput := rfl

theorem exec_ldStVx (x : Reg) (s : State) : exec (.ldStVx x) s =
    .next (s.advancePc.setSt (s.getV x)).updateTimers.nextInput := rfl

end Sys2Proof.Machine
end

