-- ==== Sys2Proof/Laws/PerInstr.lean ====
section
/-! SUPPORT. Statements about every instruction as syntax, one lemma per constructor. -/

namespace Sys2Proof.Laws.LeadingNibble

open Sys2Proof

/-- The opcode family of an instruction, the leading nibble of its pattern in spec/30_encoding.md R95. -/
def family : Instr → Nibble
  | .sys _ => 0x0
  | .cls => 0x0
  | .ret => 0x0
  | .jp _ => 0x1
  | .call _ => 0x2
  | .seByte _ _ => 0x3
  | .sneByte _ _ => 0x4
  | .seReg _ _ => 0x5
  | .ldByte _ _ => 0x6
  | .addByte _ _ => 0x7
  | .ldVxVy _ _ => 0x8
  | .or _ _ => 0x8
  | .and _ _ => 0x8
  | .xor _ _ => 0x8
  | .add _ _ => 0x8
  | .sub _ _ => 0x8
  | .shr _ => 0x8
  | .subn _ _ => 0x8
  | .shl _ => 0x8
  | .sneReg _ _ => 0x9
  | .ldI _ => 0xA
  | .ldV0 _ => 0xB
  | .rnd _ _ => 0xC
  | .drw _ _ _ => 0xD
  | .skp _ => 0xE
  | .sknp _ => 0xE
  | .ldVxDt _ => 0xF
  | .wKey _ => 0xF
  | .ldDtVx _ => 0xF
  | .ldStVx _ => 0xF
  | .addIVx _ => 0xF
  | .ldFVx _ => 0xF
  | .ldBVx _ => 0xF
  | .ldIVx _ => 0xF
  | .ldVxI _ => 0xF

/-- The encoder puts an instruction into its family. -/
def Statement (i : Instr) : Prop := nib0 (encode i) = family i

theorem sys (nnn : Addr12) : Statement (.sys nnn) := by simp [Statement, encode, family]
theorem cls : Statement .cls := by unfold Statement; decide
theorem ret : Statement .ret := by unfold Statement; decide
theorem jp (nnn : Addr12) : Statement (.jp nnn) := by simp [Statement, encode, family]
theorem call (nnn : Addr12) : Statement (.call nnn) := by simp [Statement, encode, family]
theorem seByte (x : Reg) (kk : Byte) : Statement (.seByte x kk) := by simp [Statement, encode, family]
theorem sneByte (x : Reg) (kk : Byte) : Statement (.sneByte x kk) := by simp [Statement, encode, family]
theorem seReg (x : Reg) (y : Reg) : Statement (.seReg x y) := by simp [Statement, encode, family]
theorem ldByte (x : Reg) (kk : Byte) : Statement (.ldByte x kk) := by simp [Statement, encode, family]
theorem addByte (x : Reg) (kk : Byte) : Statement (.addByte x kk) := by simp [Statement, encode, family]
theorem ldVxVy (x : Reg) (y : Reg) : Statement (.ldVxVy x y) := by simp [Statement, encode, family]
theorem or (x : Reg) (y : Reg) : Statement (.or x y) := by simp [Statement, encode, family]
theorem and (x : Reg) (y : Reg) : Statement (.and x y) := by simp [Statement, encode, family]
theorem xor (x : Reg) (y : Reg) : Statement (.xor x y) := by simp [Statement, encode, family]
theorem add (x : Reg) (y : Reg) : Statement (.add x y) := by simp [Statement, encode, family]
theorem sub (x : Reg) (y : Reg) : Statement (.sub x y) := by simp [Statement, encode, family]
theorem shr (x : Reg) : Statement (.shr x) := by simp [Statement, encode, family]
theorem subn (x : Reg) (y : Reg) : Statement (.subn x y) := by simp [Statement, encode, family]
theorem shl (x : Reg) : Statement (.shl x) := by simp [Statement, encode, family]
theorem sneReg (x : Reg) (y : Reg) : Statement (.sneReg x y) := by simp [Statement, encode, family]
theorem ldI (nnn : Addr12) : Statement (.ldI nnn) := by simp [Statement, encode, family]
theorem ldV0 (nnn : Addr12) : Statement (.ldV0 nnn) := by simp [Statement, encode, family]
theorem rnd (x : Reg) (kk : Byte) : Statement (.rnd x kk) := by simp [Statement, encode, family]
theorem drw (x : Reg) (y : Reg) (n : Nibble) : Statement (.drw x y n) := by simp [Statement, encode, family]
theorem skp (x : Reg) : Statement (.skp x) := by simp [Statement, encode, family]
theorem sknp (x : Reg) : Statement (.sknp x) := by simp [Statement, encode, family]
theorem ldVxDt (x : Reg) : Statement (.ldVxDt x) := by simp [Statement, encode, family]
theorem wKey (x : Reg) : Statement (.wKey x) := by simp [Statement, encode, family]
theorem ldDtVx (x : Reg) : Statement (.ldDtVx x) := by simp [Statement, encode, family]
theorem ldStVx (x : Reg) : Statement (.ldStVx x) := by simp [Statement, encode, family]
theorem addIVx (x : Reg) : Statement (.addIVx x) := by simp [Statement, encode, family]
theorem ldFVx (x : Reg) : Statement (.ldFVx x) := by simp [Statement, encode, family]
theorem ldBVx (x : Reg) : Statement (.ldBVx x) := by simp [Statement, encode, family]
theorem ldIVx (x : Reg) : Statement (.ldIVx x) := by simp [Statement, encode, family]
theorem ldVxI (x : Reg) : Statement (.ldVxI x) := by simp [Statement, encode, family]

end Sys2Proof.Laws.LeadingNibble
end

