-- ==== Sys2Proof/Laws/Step.lean ====
section
/-! SUPPORT. What a step can do, said once: which of its cases applies, and the inversion of a step that answers
a next state. -/

namespace Sys2Proof.Machine

open Sys2Proof

/-- Fetch and decode in terms of the word at `PC` (R121, R122). -/
theorem State.fetchDecode_eq (s : State) : s.fetchDecode =
    match decodeWord s.wordAtPc with
    | some i => .execute i
    | none => .unknown s.wordAtPc := by
  unfold State.fetchDecode
  rw [show s.fetchBytes = [s.readMem s.pc.toNat, s.readMem (s.pc.toNat + 1)] from rfl, decode_cons_cons]
  unfold State.wordAtPc
  split <;> rename_i h <;> split at h <;> simp_all

@[simp] theorem State.canFetch_iff (s : State) : s.canFetch = true ↔ s.pc.toNat + 2 ≤ s.memSize := by
  simp [State.canFetch]

theorem State.active_of_run {s : State} (h : s.run = true) : s.active = true := by
  simp [State.active, h]

theorem State.active_of_holding {s : State} (h : s.holding = true) : s.active = true := by
  simp [State.active, h]

/-- A latched fault decides the step, whatever else holds (R265); the three lemmas after this one
are the other cases, each under its own condition (R120, R128). -/
theorem State.action_of_fault {s : State} {f : FaultRecord} (h : s.fault = some f) :
    s.action = .halted f := by
  simp [State.action, h]

theorem State.action_paused {s : State} (h : s.fault = none) (ha : s.active = false) :
    s.action = .paused := by
  simp [State.action, h, ha]

theorem State.action_fetchFault {s : State} (h : s.fault = none) (ha : s.active = true)
    (hp : ¬ s.pc.toNat + 2 ≤ s.memSize) : s.action = .fetchFault := by
  simp [State.action, h, ha, hp]

theorem State.action_active {s : State} (h : s.fault = none) (ha : s.active = true)
    (hp : s.pc.toNat + 2 ≤ s.memSize) : s.action = s.fetchDecode := by
  simp [State.action, h, ha, hp]

/-- Everything a step that answers a next state can have done. -/
theorem step_cases {s t : State} (h : step s = .next t) : s.fault = none ∧
    ((s.active = false ∧ t = s) ∨
      (s.active = true ∧ ¬ s.pc.toNat + 2 ≤ s.memSize ∧ t = s.fetchFault) ∨
      (s.active = true ∧ s.pc.toNat + 2 ≤ s.memSize ∧ decodeWord s.wordAtPc = none ∧
        unknownCycle s.wordAtPc s = .next t) ∨
      ∃ i, s.active = true ∧ s.pc.toNat + 2 ≤ s.memSize ∧ decodeWord s.wordAtPc = some i ∧
        exec i s = .next t) := by
  unfold step at h
  cases hf : s.fault with
  | some f => rw [State.action_of_fault hf] at h; cases h
  | none =>
    refine ⟨rfl, ?_⟩
    cases ha : s.active with
    | false => rw [State.action_paused hf ha] at h; cases h; exact .inl ⟨rfl, rfl⟩
    | true =>
      by_cases hp : s.pc.toNat + 2 ≤ s.memSize
      · rw [State.action_active hf ha hp, State.fetchDecode_eq] at h
        cases hd : decodeWord s.wordAtPc with
        | none => rw [hd] at h; exact .inr (.inr (.inl ⟨rfl, hp, rfl, h⟩))
        | some i => rw [hd] at h; exact .inr (.inr (.inr ⟨i, rfl, hp, rfl, h⟩))
      · rw [State.action_fetchFault hf ha hp] at h; cases h
        exact .inr (.inl ⟨rfl, hp, rfl⟩)

end Sys2Proof.Machine
end

