-- ==== Sys2Proof/Tests/Slice0.lean ====
section
/-! SUPPORT. The model's own tests. Expected values are those of spec/95_test_vectors.md (the vector's name
stands in each comment) or of the rule named; every word is written out from spec/30_encoding.md R95. -/

namespace Sys2Proof.Tests

open Sys2Proof Sys2Proof.Machine

/-! ## Helpers -/

/-- The state after one step that runs the word `w`, if the step answers a next state. -/
def after (s : State) (w : Nat) : Option State :=
  match step (s.withFetchWord 16 w) with
  | .next t => some t
  | .fault _ => none
  | .refused _ => none

/-- The reset state with the ports of the coming cycle: key 10 down, key 7 reported, random byte 0xB7. -/
def start : State := { State.reset with script := [⟨0x0400, some 0x7, 0xB7⟩] }

/-- The reset state under policy `fail_fast`. -/
def strict : State := { start with params := { start.params with unknownOpcode := .failFast } }

/-- The reset state with no key reported in the coming cycle. -/
def noKey : State := { start with script := [⟨0x0400, none, 0xB7⟩] }

/-- `start` with `I` at 0x300 and one sprite byte there. -/
def withSprite (b : Byte) : State := { start with i := 0x300, mem := [(0x300, b)] }

/-- `V[r]`, `PC` and the fault latch. -/
def look (r : Reg) (t : State) : Byte × Word × Option FaultRecord := (t.getV r, t.pc, t.fault)

/-- `PC` and the fault latch. -/
def where' (t : State) : Word × Option FaultRecord := (t.pc, t.fault)

/-! ## Well-formedness: one ill-formed term for each check -/

theorem test_wf_refuses_the_word_of_cls :
    (Instr.sys 0x0E0).wf = false ∧ Instr.notCls 0x0E0 = false ∧ Instr.notRet 0x0E0 = true := by decide
theorem test_wf_refuses_the_word_of_ret :
    (Instr.sys 0xAEE).wf = false ∧ Instr.notCls 0xAEE = true ∧ Instr.notRet 0xAEE = false := by decide
theorem test_wf_admits_sys :
    (Instr.sys 0x0DF).wf = true ∧ (Instr.sys 0x0E1).wf = true ∧ (Instr.sys 0xFEF).wf = true := by decide

/-! ## Decoding, a word for every constructor (95_test_vectors.md, section 2) -/

theorem test_decode_sys : decodeTableWord 16 0x0123 = some (.sys 0x123) := by decide
theorem test_decode_sys_zero : decodeTableWord 16 0x0000 = some (.sys 0x000) := by decide
theorem test_decode_cls : decodeTableWord 16 0x00E0 = some (.cls) := by decide
theorem test_decode_cls_n1_ignored : decodeTableWord 16 0x0AE0 = some (.cls) := by decide
theorem test_decode_ret : decodeTableWord 16 0x00EE = some (.ret) := by decide
theorem test_decode_ret_n1_ignored : decodeTableWord 16 0x0FEE = some (.ret) := by decide
theorem test_decode_jp : decodeTableWord 16 0x1ABC = some (.jp 0xABC) := by decide
theorem test_decode_call : decodeTableWord 16 0x2FFF = some (.call 0xFFF) := by decide
theorem test_decode_seByte : decodeTableWord 16 0x3A42 = some (.seByte 0xA 0x42) := by decide
theorem test_decode_sneByte : decodeTableWord 16 0x4A42 = some (.sneByte 0xA 0x42) := by decide
theorem test_decode_seReg : decodeTableWord 16 0x5AB7 = some (.seReg 0xA 0xB) := by decide
theorem test_decode_ldByte : decodeTableWord 16 0x6A2F = some (.ldByte 0xA 0x2F) := by decide
theorem test_decode_addByte : decodeTableWord 16 0x7A2F = some (.addByte 0xA 0x2F) := by decide
theorem test_decode_ldVxVy : decodeTableWord 16 0x8AB0 = some (.ldVxVy 0xA 0xB) := by decide
theorem test_decode_or : decodeTableWord 16 0x8AB1 = some (.or 0xA 0xB) := by decide
theorem test_decode_and : decodeTableWord 16 0x8AB2 = some (.and 0xA 0xB) := by decide
theorem test_decode_xor : decodeTableWord 16 0x8AB3 = some (.xor 0xA 0xB) := by decide
theorem test_decode_add : decodeTableWord 16 0x8AB4 = some (.add 0xA 0xB) := by decide
theorem test_decode_sub : decodeTableWord 16 0x8AB5 = some (.sub 0xA 0xB) := by decide
theorem test_decode_shr : decodeTableWord 16 0x8AB6 = some (.shr 0xA) := by decide
theorem test_decode_subn : decodeTableWord 16 0x8AB7 = some (.subn 0xA 0xB) := by decide
theorem test_decode_shl : decodeTableWord 16 0x8ABE = some (.shl 0xA) := by decide
theorem test_decode_sneReg : decodeTableWord 16 0x9AB1 = some (.sneReg 0xA 0xB) := by decide
theorem test_decode_ldI : decodeTableWord 16 0xA2F0 = some (.ldI 0x2F0) := by decide
theorem test_decode_ldV0 : decodeTableWord 16 0xBFFF = some (.ldV0 0xFFF) := by decide
theorem test_decode_rnd : decodeTableWord 16 0xC30F = some (.rnd 0x3 0x0F) := by decide
theorem test_decode_drw : decodeTableWord 16 0xD12F = some (.drw 0x1 0x2 0xF) := by decide
theorem test_decode_drw_zero : decodeTableWord 16 0xD000 = some (.drw 0x0 0x0 0x0) := by decide
theorem test_decode_skp : decodeTableWord 16 0xE19E = some (.skp 0x1) := by decide
theorem test_decode_sknp : decodeTableWord 16 0xE1A1 = some (.sknp 0x1) := by decide
theorem test_decode_ldVxDt : decodeTableWord 16 0xF307 = some (.ldVxDt 0x3) := by decide
theorem test_decode_wKey : decodeTableWord 16 0xF40A = some (.wKey 0x4) := by decide
theorem test_decode_ldDtVx : decodeTableWord 16 0xF215 = some (.ldDtVx 0x2) := by decide
theorem test_decode_ldStVx : decodeTableWord 16 0xF218 = some (.ldStVx 0x2) := by decide
theorem test_decode_addIVx : decodeTableWord 16 0xF11E = some (.addIVx 0x1) := by decide
theorem test_decode_ldFVx : decodeTableWord 16 0xF229 = some (.ldFVx 0x2) := by decide
theorem test_decode_ldBVx : decodeTableWord 16 0xF033 = some (.ldBVx 0x0) := by decide
theorem test_decode_ldIVx : decodeTableWord 16 0xF255 = some (.ldIVx 0x2) := by decide
theorem test_decode_ldVxI : decodeTableWord 16 0xFF65 = some (.ldVxI 0xF) := by decide
theorem test_decode_unknown_family8 :
    decodeWord 0x8AB8 = none ∧ decodeWord 0x8ABD = none ∧ decodeWord 0x8ABF = none := by decide
theorem test_decode_unknown_familyE : decodeWord 0xE19F = none ∧ decodeWord 0xE000 = none := by decide
theorem test_decode_unknown_familyF :
    decodeWord 0xF175 = none ∧ decodeWord 0xF000 = none ∧ decodeWord 0xFFFF = none := by decide
theorem test_decode_names_the_unknown_word : decode [0x8A, 0xB8, 0x12] = .unknownOpcode 0x8AB8 [0x12] := by
  decide
theorem test_decode_too_short : decode [0x8A] = .tooShort ∧ decode [] = .tooShort := by decide

/-- R96: the encoder writes zero into the ignored nibbles. -/
theorem test_encode_canonical :
    encode (.shr 0xA) = 0x8A06 ∧ encode (.seReg 0xA 0xB) = 0x5AB0 ∧ encode .ret = 0x00EE ∧
      encode (.drw 0x1 0x2 0xF) = 0xD12F ∧ encode (.ldBVx 0x7) = 0xF733 := by decide
/-- R68: the high byte first. -/
theorem test_encodeBytes_big_endian : encodeBytes (.ldI 0x2F0) = [0xA2, 0xF0] := by decide

/-! ## The cycle -/

/-- C1: the last fetchable address. -/
theorem test_fetch_at_the_last_address :
    (after { start with pc := 0xFFD } 0x1200).map (where') = some (0x200, none) := by decide
/-- C2: 0xFFE is backed, but a fetch of two bytes there is not admitted. -/
theorem test_fetch_fault :
    (after { start with pc := 0xFFE } 0x1200).map (where') =
      some (0xFFE, some ⟨.outOfBounds .fetch, 0xFFE⟩) := by decide
/-- C3: no wrap of `PC + 2`. -/
theorem test_fetch_does_not_wrap :
    (after { start with pc := 0xFFFF } 0x1200).map (where') =
      some (0xFFFF, some ⟨.outOfBounds .fetch, 0xFFFF⟩) := by decide
/-- C4: an odd `PC` is legal. -/
theorem test_odd_pc :
    (after { start with pc := 0x201 } 0x6A2F).map (look 0xA) = some (0x2F, 0x203, none) := by decide
/-- C7: a word of family 8 without an entry, under `fail_fast`; the timers stand. -/
theorem test_unknown_fail_fast :
    (after { strict with dt := 5 } 0x8AB8).map (fun t => (where' t, t.dt)) =
      some ((0x202, some ⟨.unknownOpcode, 0x8AB8⟩), 5) := by decide
/-- C8: under `skip` a completed no-op cycle and an event. -/
theorem test_unknown_skip :
    (after { start with dt := 5 } 0xF175).map (fun t => (where' t, t.dt, t.events)) =
      some ((0x202, none), 4, [.unknownOpcode 0xF175]) := by decide
/-- C5: SYS under `fail_fast`. -/
theorem test_sys_fail_fast :
    (after { strict with dt := 5, st := 3 } 0x0000).map (fun t => (where' t, t.dt, t.st)) =
      some ((0x202, some ⟨.unknownOpcode, 0x0000⟩), 5, 3) := by decide
/-- C6: SYS under `skip`. -/
theorem test_sys_skip :
    (after { start with dt := 5, st := 3 } 0x0000).map (fun t => (where' t, t.dt, t.st, t.events)) =
      some ((0x202, none), 4, 2, [.unknownOpcode 0x0000]) := by decide
/-- E8: a timer at 0 stays at 0. -/
theorem test_timers_saturate :
    (after { start with dt := 0, st := 1 } 0x6000).map (fun t => (t.dt, t.st)) = some (0, 0) := by decide
/-- C11: a faulting cycle leaves the timers alone. -/
theorem test_fault_leaves_timers :
    (after { start with dt := 5, st := 5 } 0x00EE).map (fun t => (where' t, t.dt, t.st)) =
      some ((0x202, some ⟨.stackUnderflow, 0⟩), 5, 5) := by decide
/-- R128: a paused block changes nothing. -/
theorem test_paused :
    step { start with run := false, dt := 5 } = .next { start with run := false, dt := 5 } := rfl
/-- R265: a halted block takes no cycle, whatever `run` is. -/
theorem test_halted :
    step { start with run := false, fault := some ⟨.stackUnderflow, 0⟩ } = .fault (.halted ⟨.stackUnderflow, 0⟩) :=
    rfl
/-- With nothing placed the first word is 0x0000, a SYS word (log entry 7). -/
theorem test_first_word_after_reset :
    step State.reset = exec (.sys 0x000) State.reset := rfl
/-- R300: the fault latch is cleared by reset. -/
theorem test_reset_clears_fault :
    (State.assertReset { start with fault := some ⟨.stackUnderflow, 0⟩, pc := 0x345 }).fault = none ∧
      (State.assertReset { start with pc := 0x345 }).pc = 0x200 := by decide
/-- R276: the status outputs. -/
theorem test_status_outputs :
    State.soundActive { start with st := 1 } = true ∧ State.soundActive start = false ∧
      State.faultKind { start with fault := some ⟨.outOfBounds .data, 0xFFD⟩ } = 1 ∧
      State.faultInfo { start with fault := some ⟨.outOfBounds .data, 0xFFD⟩ } = some ⟨some .data, 0xFFD⟩ ∧
      State.faultInfo { start with fault := some ⟨.stackUnderflow, 0⟩ } = some ⟨none, 0⟩ ∧
      State.waitingKey (noKey.withFetchWord 16 0xF40A) = true ∧
      State.waitingKey (start.withFetchWord 16 0xF40A) = false := by decide

/-! ## Control transfer and skips -/

/-- F1. -/
theorem test_ret :
    (after { start with pc := 0x300, sp := 1, stack := start.stack.set 0 0x204 } 0x00EE).map
      (fun t => (where' t, t.sp, t.stackEntry 0)) =
      some ((0x204, none), 0, 0x204) := by decide
/-- F2. -/
theorem test_ret_underflow :
    (after start 0x00EE).map (where') = some (0x202, some ⟨.stackUnderflow, 0⟩) := by decide
/-- F3. -/
theorem test_jp :
    (after start 0x1234).map (where') = some (0x234, none) := by decide
/-- F8: the 16th outstanding call fits. -/
theorem test_call_sixteenth :
    (after { start with sp := 15, stack := List.replicate 16 0x222 } 0x2300).map
      (fun t => (where' t, t.sp, t.stackEntry 15, t.stackEntry 14)) =
      some ((0x300, none), 16, 0x202, 0x222) := by decide
/-- F9. -/
theorem test_call_overflow :
    (after { start with sp := 16, stack := List.replicate 16 0x222 } 0x2300).map
      (fun t => (where' t, t.sp, t.stackEntry 15)) =
      some ((0x202, some ⟨.stackOverflow, 0x300⟩), 16, 0x222) := by decide
/-- F10. -/
theorem test_seByte_equal :
    (after (start.setV 3 0x2A) 0x332A).map (where') = some (0x204, none) := by decide
/-- F11. -/
theorem test_seByte_not_equal :
    (after (start.setV 3 0x2B) 0x332A).map (where') = some (0x202, none) := by decide
/-- F12. -/
theorem test_sneByte_equal :
    (after (start.setV 3 0x2A) 0x432A).map (where') = some (0x202, none) := by decide
/-- F13. -/
theorem test_sneByte_not_equal :
    (after start 0x432A).map (where') = some (0x204, none) := by decide
/-- F16. -/
theorem test_seReg_equal :
    (after ((start.setV 1 7).setV 2 7) 0x512F).map (where') = some (0x204, none) := by decide
/-- F15. -/
theorem test_seReg_not_equal :
    (after ((start.setV 1 7).setV 2 8) 0x5120).map (where') = some (0x202, none) := by decide
/-- F18. -/
theorem test_sneReg_not_equal :
    (after ((start.setV 1 7).setV 2 8) 0x9120).map (where') = some (0x204, none) := by decide
/-- F20: `X = Y` never skips. -/
theorem test_sneReg_same :
    (after (start.setV 4 0x99) 0x9441).map (where') = some (0x202, none) := by decide
/-- F22: not reduced modulo 0x1000. -/
theorem test_ldV0_top :
    (after (start.setV 0 0xFF) 0xBFFF).map (where') = some (0x10FE, none) := by decide
/-- F23: the offset is V0, not V1. -/
theorem test_ldV0_uses_v0 :
    (after (start.setV 1 4) 0xB134).map (where') = some (0x134, none) := by decide

/-! ## Register loads, arithmetic, logic, shifts, random -/

/-- A1. -/
theorem test_ldByte :
    (after start 0x6A2F).map (look 0xA) = some (0x2F, 0x202, none) := by decide
/-- A2: VF is an ordinary destination. -/
theorem test_ldByte_vf :
    (after (start.setV 15 1) 0x6F00).map (look 0xF) = some (0x00, 0x202, none) := by decide
/-- A4: wraps, VF untouched. -/
theorem test_addByte_wraps :
    (after (start.setV 2 0xFF) 0x7201).map (fun t => (t.getV 2, t.getV 15)) = some (0, 0) := by decide
/-- A5: `X = 15`: the wrapped sum, not a carry. -/
theorem test_addByte_vf :
    (after (start.setV 15 0xFF) 0x7F01).map (look 0xF) = some (0x00, 0x202, none) := by decide
/-- A6. -/
theorem test_ldVxVy :
    (after (start.setV 4 0x99) 0x8340).map (look 0x3) = some (0x99, 0x202, none) := by decide
/-- A8: VF keeps 1. -/
theorem test_or :
    (after (((start.setV 1 0xF0).setV 2 0x0F).setV 15 1) 0x8121).map (fun t => (t.getV 0x1, t.getV 0xF)) =
      some (0xFF, 1) := by decide
/-- A9. -/
theorem test_and :
    (after ((start.setV 1 0xFC).setV 2 0x3F) 0x8122).map (look 0x1) = some (0x3C, 0x202, none) := by decide
/-- A10. -/
theorem test_xor :
    (after ((start.setV 1 0xFF).setV 2 0x0F) 0x8123).map (look 0x1) = some (0xF0, 0x202, none) := by decide
/-- E1a: 200 + 100 = 300. -/
theorem test_add_carry :
    (after ((start.setV 1 0xC8).setV 2 0x64) 0x8124).map (fun t => (t.getV 0x1, t.getV 0xF)) =
      some (0x2C, 1) := by decide
/-- A15: `X = 15`: the flag is written last, the sum is lost. -/
theorem test_add_vf :
    (after ((start.setV 15 2).setV 1 3) 0x8F14).map (look 0xF) = some (0x00, 0x202, none) := by decide
/-- A17: 3 - 5, borrow. -/
theorem test_sub_borrow :
    (after (((start.setV 1 3).setV 2 5).setV 15 1) 0x8125).map (fun t => (t.getV 0x1, t.getV 0xF)) =
      some (0xFE, 0) := by decide
/-- E2b: equal operands give no borrow. -/
theorem test_sub_equal :
    (after ((start.setV 1 0x20).setV 2 0x20) 0x8125).map (fun t => (t.getV 0x1, t.getV 0xF)) =
      some (0x00, 1) := by decide
/-- A26: `Y` is ignored. -/
theorem test_shr :
    (after ((start.setV 1 5).setV 2 0xFF) 0x8126).map (fun t => (t.getV 0x1, t.getV 0xF)) =
      some (0x02, 1) := by decide
/-- A28: `X = 15`: result 1 overwritten by flag 0. -/
theorem test_shr_vf :
    (after (start.setV 15 2) 0x8F06).map (look 0xF) = some (0x00, 0x202, none) := by decide
/-- A22: 0x10 - 0x20, borrow. -/
theorem test_subn_borrow :
    (after (((start.setV 1 0x20).setV 2 0x10).setV 15 1) 0x8127).map (fun t => (t.getV 0x1, t.getV 0xF)) =
      some (0xF0, 0) := by decide
/-- A21. -/
theorem test_subn :
    (after ((start.setV 1 0x10).setV 2 0x20) 0x8127).map (fun t => (t.getV 0x1, t.getV 0xF)) =
      some (0x10, 1) := by decide
/-- A31: `Y` is ignored. -/
theorem test_shl :
    (after ((start.setV 1 0xC1).setV 2 0) 0x812E).map (fun t => (t.getV 0x1, t.getV 0xF)) =
      some (0x82, 1) := by decide
/-- A30: VF written 0. -/
theorem test_shl_no_carry :
    (after ((start.setV 1 0x7F).setV 15 1) 0x810E).map (fun t => (t.getV 0x1, t.getV 0xF)) =
      some (0xFE, 0) := by decide
/-- A33. -/
theorem test_rnd :
    (after start 0xC30F).map (look 0x3) = some (0x07, 0x202, none) := by decide
/-- A34: mask 0. -/
theorem test_rnd_mask_zero :
    (after (start.setV 3 0x55) 0xC300).map (look 0x3) = some (0x00, 0x202, none) := by decide

/-! ## Index register and memory -/

/-- M2: accepted though 0xFFF is not backed. -/
theorem test_ldI :
    (after start 0xAFFF).map (fun t => (t.i, where' t)) = some (0xFFF, 0x202, none) := by decide
/-- M3: passes 0xFFF without flag or fault. -/
theorem test_addIVx :
    (after { (start.setV 1 0x20) with i := 0xFF0 } 0xF11E).map (fun t => (t.i, where' t)) =
      some (0x1010, 0x202, none) := by decide
/-- M4: wraps modulo 2^16, VF untouched. -/
theorem test_addIVx_wraps :
    (after { ((start.setV 1 1).setV 15 7) with i := 0xFFFF } 0xF11E).map (fun t => (t.i, t.getV 15)) =
      some (0, 7) := by decide
/-- M6. -/
theorem test_ldFVx :
    (after (start.setV 2 0x0F) 0xF229).map (fun t => (t.i, where' t)) = some (0x4B, 0x202, none) := by decide
/-- M8. -/
theorem test_ldFVx_above :
    (after { (start.setV 2 0x10) with i := 0x123 } 0xF229).map (fun t => (t.i, where' t)) =
      some (0x123, 0x202, some ⟨.outOfBounds .fontDigit, 0x10⟩) := by decide
/-- M12: the last three bytes of memory. -/
theorem test_ldBVx :
    (after { (start.setV 0 0x7B) with i := 0xFFC } 0xF033).map
      (fun t => (t.readBytes 0xFFC 3, where' t)) =
      some ([1, 2, 3], 0x202, none) := by decide
/-- M13: nothing stored. -/
theorem test_ldBVx_out :
    (after { (start.setV 0 0x7B) with i := 0xFFD } 0xF033).map
      (fun t => (t.readBytes 0xFFD 2, where' t)) =
      some ([0, 0], 0x202, some ⟨.outOfBounds .data, 0xFFD⟩) := by decide
/-- Register values 0xA0 to 0xAF. -/
def rising : Vector Byte 16 :=
  #v[0xA0, 0xA1, 0xA2, 0xA3, 0xA4, 0xA5, 0xA6, 0xA7, 0xA8, 0xA9, 0xAA, 0xAB, 0xAC, 0xAD, 0xAE, 0xAF]

/-- M16: sixteen bytes, VF included. -/
theorem test_ldIVx_all :
    (after { start with i := 0xFEF, v := rising } 0xFF55).map (fun t =>
      (t.readBytes 0xFEF 2, t.readMem 0xFFE, t.i)) = some ([0xA0, 0xA1], 0xAF, 0xFEF) :=
    by decide
/-- M17: no partial store. -/
theorem test_ldIVx_out :
    (after { (start.setV 0 0xA0) with i := 0xFF0 } 0xFF55).map
      (fun t => (t.readMem 0xFF0, where' t)) =
      some (0, 0x202, some ⟨.outOfBounds .data, 0xFF0⟩) := by decide
/-- M18: V2 untouched. -/
theorem test_ldVxI :
    (after { (start.setV 2 0x77) with i := 0x300, mem := [(0x300, 0xAA), (0x301, 0xBB), (0x302, 0xCC)] } 0xF165).map
      (fun t =>
      (t.getV 0, t.getV 1, t.getV 2, t.i)) = some (0xAA, 0xBB, 0x77, 0x300) := by decide
/-- M19: the font is readable, glyph 0. -/
theorem test_ldVxI_font :
    (after start 0xF465).map (fun t => (t.getV 0, t.getV 1, t.getV 4)) = some (0xF0, 0x90, 0xF0) := by decide

/-! ## Display -/

/-- D22: margin cleared too, VF untouched. -/
theorem test_cls :
    (after { (start.setV 15 1) with fb := FrameBuffer.setByte (FrameBuffer.setByte start.fb 0 8 0xF0) 35 0 1 } 0x00E0).map
      (fun t =>
      (FrameBuffer.byteAt t.fb 0 8, FrameBuffer.byteAt t.fb 35 0, t.getV 15, t.events)) = some (0, 0, 1, [.presentClear]) :=
    by decide
/-- D1: straddles a byte boundary. -/
theorem test_drw_straddles :
    (after ((withSprite 0xFF).setV 1 3) 0xD121).map (fun t =>
      (FrameBuffer.byteAt t.fb 0 0, FrameBuffer.byteAt t.fb 0 1, t.getV 15, t.events)) = some (0x1F, 0xE0, 0, [.presentDraw]) :=
    by decide
/-- D17: partial overlap. -/
theorem test_drw_collides :
    (after { withSprite 0xC0 with fb := FrameBuffer.setByte start.fb 0 0 0x80 } 0xD001).map (fun t =>
      (FrameBuffer.byteAt t.fb 0 0, t.getV 15)) = some (0x40, 1) := by decide
/-- D4: the bottom-right visible pixel and the margin, and what the host shows (R225). -/
theorem test_drw_bottom_right :
    (after (((withSprite 0xFF).setV 1 0x3F).setV 2 0x1F) 0xD121).map (fun t =>
      (FrameBuffer.byteAt t.fb 31 7, FrameBuffer.byteAt t.fb 31 8, t.pixelLit 63 31, t.pixelLit 64 31)) = some (1, 0xFE, true, false) :=
    by decide
/-- D8: row 36 does not exist; the record is `y` and `x`. -/
theorem test_drw_display_out :
    (after ((withSprite 0xFF).setV 2 0x24) 0xD121).map (where') =
      some (0x202, some ⟨.outOfBounds .display, 0x2400⟩) := by decide
/-- D16: both causes apply, the sprite read is reported. -/
theorem test_drw_sprite_first :
    (after { (start.setV 1 0x40) with i := 0xFFE } 0xD102).map (where') =
      some (0x202, some ⟨.outOfBounds .sprite, 0xFFE⟩) := by decide
/-- D20: `X = Y = 15`: the old VF is both coordinates. -/
theorem test_drw_vf :
    (after ((withSprite 0xFF).setV 15 8) 0xDFF1).map (fun t => (FrameBuffer.byteAt t.fb 8 1, t.getV 15)) =
      some (0xFF, 0) := by decide

/-! ## Keypad and timers -/

/-- K1. -/
theorem test_skp_down :
    (after (start.setV 5 0x0A) 0xE59E).map (where') = some (0x204, none) := by decide
/-- K5. -/
theorem test_skp_above :
    (after (start.setV 5 0x10) 0xE59E).map (where') =
      some (0x202, some ⟨.outOfBounds .keyIndex, 0x10⟩) := by decide
/-- K4. -/
theorem test_sknp_down :
    (after (start.setV 5 0x0A) 0xE5A1).map (where') = some (0x202, none) := by decide
/-- K6. -/
theorem test_sknp_above :
    (after (start.setV 5 0xFF) 0xE5A1).map (where') =
      some (0x202, some ⟨.outOfBounds .keyIndex, 0xFF⟩) := by decide
/-- K7: reads before the decrement. -/
theorem test_ldVxDt :
    (after { start with dt := 0x10 } 0xF307).map (fun t => (t.getV 3, t.dt)) = some (0x10, 0x0F) := by decide
/-- K13: no key, the cycle holds. -/
theorem test_wKey_hold :
    (after { noKey with dt := 9 } 0xF40A).map (fun t => (look 4 t, t.dt)) =
      some ((0, 0x200, none), 9) := by decide
/-- K14. -/
theorem test_wKey :
    (after { start with dt := 9 } 0xF40A).map (fun t => (look 4 t, t.dt)) =
      some ((7, 0x202, none), 8) := by decide
/-- K9. -/
theorem test_ldDtVx :
    (after (start.setV 2 0x3C) 0xF215).map (fun t => (t.dt, where' t)) = some (0x3B, 0x202, none) := by decide
/-- K11: loading 0 leaves 0. -/
theorem test_ldDtVx_zero :
    (after { start with dt := 9 } 0xF215).map (fun t => t.dt) = some 0 := by decide
/-- K12. -/
theorem test_ldStVx :
    (after (start.setV 2 5) 0xF218).map (fun t => (t.st, where' t)) = some (4, 0x202, none) := by decide

/-! ## Witnesses: for every statement with hypotheses, a state and operands that meet them, each clause at
a boundary value -/

theorem test_witness_JumpsSetPc : start.fault = none ∧ start.run = true ∧ 
    (0xFFE : Addr12).toNat + 2 > start.memSize ∧
    (0xFFF : Addr12).toNat + (start.getV 0).toNat + 2 > start.memSize ∧ start.pc.toNat = (0x200 : Addr12).toNat := by decide

theorem test_witness_DecodeEncodeRoundTrip :
    (Instr.sys 0x0E1).wf = true ∧ (Instr.drw 0xF 0xF 0xF).wf = true := by decide
theorem test_witness_DecodedWordUpToIgnoredBits :
    decodeWord 0x8AB6 = some (.shr 0xA) ∧ decodeWord 0x0FEE = some .ret := by decide
/-- `PC` at the last fetchable address, with a word there. -/
def lastFetch : State := State.withFetchWord { start with pc := 0xFFD } 16 0x6A2F
theorem test_witness_StepRunsTheDecodedInstruction :
    lastFetch.fault = none ∧ lastFetch.active = true ∧ lastFetch.pc.toNat + 2 ≤ lastFetch.memSize ∧
      decode [lastFetch.readMem lastFetch.pc.toNat, lastFetch.readMem (lastFetch.pc.toNat + 1)] =
        .instr (.ldByte 0xA 0x2F) [] := by decide
theorem test_witness_FetchFaultLeavesPc :
    ({ start with pc := 0xFFE } : State).fault = none ∧ ({ start with pc := 0xFFE } : State).active = true ∧
      ({ start with pc := 0xFFE } : State).pc.toNat + 2 > start.memSize := by decide
/-- An unknown word at the last fetchable address. -/
def lastUnknown (s : State) : State := State.withFetchWord { s with pc := 0xFFD } 16 0x8AB8
theorem test_witness_UnknownWordUnderEitherPolicy_skip :
    (lastUnknown start).fault = none ∧ (lastUnknown start).active = true ∧
      (lastUnknown start).pc.toNat + 2 ≤ (lastUnknown start).memSize ∧ selectRow (opcodeId (lastUnknown start).wordAtPc) = none ∧
      (lastUnknown start).params.unknownOpcode = .skip := by decide
theorem test_witness_UnknownWordUnderEitherPolicy_fail_fast :
    (lastUnknown strict).fault = none ∧ (lastUnknown strict).active = true ∧
      (lastUnknown strict).pc.toNat + 2 ≤ (lastUnknown strict).memSize ∧ selectRow (opcodeId (lastUnknown strict).wordAtPc) = none ∧
      (lastUnknown strict).params.unknownOpcode = .failFast := by decide
theorem test_witness_UnknownWordUnderEitherPolicy_sys :
    (start.withFetchWord 16 0x00E1).fault = none ∧ (start.withFetchWord 16 0x00E1).active = true ∧
      (start.withFetchWord 16 0x00E1).pc.toNat + 2 ≤ (start.withFetchWord 16 0x00E1).memSize ∧
      selectRow (opcodeId (start.withFetchWord 16 0x00E1).wordAtPc) = none := by decide
theorem test_witness_SysIsAnUnknownOpcode :
    ((0x0E1#12).toNat % 256) ∉ [0xE0, 0xEE] ∧ start.params.unknownOpcode = .skip ∧
      strict.params.unknownOpcode = .failFast := by decide
theorem test_witness_StepStopsExactlyWhenHalted :
    start.fault = none ∧ (start.raise ⟨.stackUnderflow, 0⟩).fault = some ⟨.stackUnderflow, 0⟩ := by decide
theorem test_witness_PausedBlockChangesNothing :
    (start.setRun false).fault = none ∧ (start.setRun false).run = false ∧
      (start.setRun false).holding = false := by decide
/-- LD_I_VX at the last place where another fetch fits behind it, storing the word 0x612A there. -/
def patching : State :=
  State.withFetchWord { start with pc := 0xFFB, i := 0xFFD, v := (start.v.set 0 0x61).set 1 0x2A } 16 0xF155
theorem test_witness_StoreIsSeenByTheNextFetch :
    patching.memWf = true ∧ patching.fault = none ∧ patching.run = true ∧
      patching.pc.toNat + 4 ≤ patching.memSize ∧ decodeWord patching.wordAtPc = some (.ldIVx 1) ∧ 1 ≤ (1 : Reg).toNat ∧
      patching.i = patching.pc + 2 ∧ patching.i.toNat + (1 : Reg).toNat + 1 ≤ patching.memSize ∧
      decodeWord (wordOfBytes (patching.getV 0) (patching.getV 1)) = some (.ldByte 1 0x2A) := by decide
theorem test_witness_JpToItselfOnlyStepsTimers :
    (start.withFetchWord 16 0x1200).spinning ∧ (start.withFetchWord 16 0x1200).active = true := by
  unfold State.spinning; decide
theorem test_witness_SpinningAtTheLastAddress :
    (State.withFetchWord { start with pc := 0xFFD } 16 0x1FFD).spinning := by
  unfold State.spinning; decide
theorem test_witness_AddSetsCarry :
    (14 : Reg) ≠ 15 ∧ (0 : Reg) ≠ 15 := by decide
theorem test_witness_SubSetsNotBorrow :
    (14 : Reg) ≠ 15 ∧ (0 : Reg) ≠ 15 := by decide
theorem test_witness_SubnSetsNotBorrow :
    (14 : Reg) ≠ 15 ∧ (0 : Reg) ≠ 15 := by decide
theorem test_witness_ShiftsByOneBit :
    (14 : Reg) ≠ 15 ∧ (0 : Reg) ≠ 15 := by decide
/-- The stack with `k` of its sixteen entries valid. -/
def withCalls (k : Nat) : State := { start with sp := k, stack := List.replicate 16 0x222 }
theorem test_witness_CallPushesReturnAddress :
    ((withCalls 15).sp < (withCalls 15).stackCapacity ∧ (withCalls 15).stack.length = (withCalls 15).stackCapacity) ∧
      (withCalls 16).sp = (withCalls 16).stackCapacity := by decide
theorem test_witness_ReturnPopsNewestAddress :
    (withCalls 1).sp ≠ 0 ∧ (withCalls 16).sp ≠ 0 ∧ (withCalls 0).sp = 0 := by decide
theorem test_witness_CallThenReturn :
    (withCalls 0).sp < (withCalls 0).stackCapacity ∧ (withCalls 0).stack.length = (withCalls 0).stackCapacity ∧
      ∃ t, exec (.call 0x300) (withCalls 0) = .next t ∧ t.stack = t.stack ∧ t.sp = t.sp :=
    ⟨by decide, rfl, _, rfl, rfl, rfl⟩
theorem test_witness_FontAddressOfDigit :
    ((start.setV 2 15).getV 2).toNat ≤ 15 ∧ ((start.setV 2 16).getV 2).toNat > 15 := by decide
/-- `start` with `I` at `a`. -/
def withI (a : Word) : State := { start with i := a }
theorem test_witness_DecimalDigitsStored :
    ((withI 0xFFC).memWf = true ∧ (withI 0xFFC).i.toNat + 3 ≤ (withI 0xFFC).memSize) ∧ (withI 0xFFD).i.toNat + 3 > (withI 0xFFD).memSize :=
    by decide
theorem test_witness_RegistersStored :
    ((withI 0xFEF).memWf = true ∧ (withI 0xFEF).i.toNat + (15 : Reg).toNat + 1 ≤ (withI 0xFEF).memSize) ∧
      (withI 0xFF0).i.toNat + (15 : Reg).toNat + 1 > (withI 0xFF0).memSize := by decide
theorem test_witness_RegistersLoaded :
    ((withI 0xFEF).memWf = true ∧ (withI 0xFEF).i.toNat + (15 : Reg).toNat + 1 ≤ (withI 0xFEF).memSize) ∧
      (withI 0xFF0).i.toNat + (15 : Reg).toNat + 1 > (withI 0xFF0).memSize := by decide
theorem test_witness_StoreThenLoadRestoresRegisters :
    (withI 0xFFE).memWf = true ∧ (withI 0xFFE).i.toNat + (0 : Reg).toNat + 1 ≤ (withI 0xFFE).memSize := by decide
/-- `V1`, `V2` and `I` as a DRW reads them. -/
def drawing (x y : Byte) (a : Word) : State := { (start.setV 1 x).setV 2 y with i := a }
theorem test_witness_DrawXorsPixels_at_the_edges :
    (drawing 63 35 0xFFE).i.toNat + (1 : Nibble).toNat ≤ (drawing 63 35 0xFFE).memSize ∧ ((drawing 63 35 0xFFE).getV 1).toNat ≤ 63 ∧
      ((drawing 63 35 0xFFE).getV 2).toNat + (1 : Nibble).toNat ≤ 36 := by decide
theorem test_witness_DrawXorsPixels_fifteen_rows :
    (drawing 0 21 0xFF0).i.toNat + (15 : Nibble).toNat ≤ (drawing 0 21 0xFF0).memSize ∧ ((drawing 0 21 0xFF0).getV 1).toNat ≤ 63 ∧
      ((drawing 0 21 0xFF0).getV 2).toNat + (15 : Nibble).toNat ≤ 36 := by decide
theorem test_witness_DrawXorsPixels_no_rows :
    (drawing 200 200 0xFFF).i.toNat + (0 : Nibble).toNat ≤ (drawing 200 200 0xFFF).memSize ∧ (0 : Nibble).toNat = 0 := by decide
theorem test_witness_DrawOutOfBoundsRaises :
    (drawing 0 0 0x1000).i.toNat + (0 : Nibble).toNat > (drawing 0 0 0x1000).memSize ∧
      ((drawing 64 0 0xFFE).i.toNat + (1 : Nibble).toNat ≤ (drawing 64 0 0xFFE).memSize ∧ 1 ≤ (1 : Nibble).toNat ∧
        ((drawing 64 0 0xFFE).getV 1).toNat > 63) ∧
      ((drawing 0 22 0xFF0).i.toNat + (15 : Nibble).toNat ≤ (drawing 0 22 0xFF0).memSize ∧ 1 ≤ (15 : Nibble).toNat ∧
        ((drawing 0 22 0xFF0).getV 2).toNat + (15 : Nibble).toNat > 36) := by decide
theorem test_witness_DrawTwiceRestores :
    (1 : Reg) ≠ 15 ∧ (2 : Reg) ≠ 15 ∧ (drawing 63 31 0).i.toNat + (5 : Nibble).toNat ≤ (drawing 63 31 0).memSize ∧
      ((drawing 63 31 0).getV 1).toNat ≤ 63 ∧ ((drawing 63 31 0).getV 2).toNat + (5 : Nibble).toNat ≤ 36 ∧
      (∃ t, exec (.drw 1 2 5) (drawing 63 31 0) = .next t ∧ t.getV 15 = 0) ∧
      (0 < (5 : Nibble).toNat ∧ (drawing 63 31 0).readMem ((drawing 63 31 0).i.toNat + 0) ≠ 0) := by
  refine ⟨by decide, by decide, by decide, by decide, by decide, ⟨_, rfl, by decide⟩, by decide⟩
theorem test_witness_SkipsOnKey :
    ((start.setV 5 15).getV 5).toNat ≤ 15 ∧ ((start.setV 5 16).getV 5).toNat > 15 := by decide
theorem test_witness_KeyWaitCompletes :
    start.input.keyReport = some 0x7 := by decide
theorem test_witness_KeyWaitHolds :
    noKey.input.keyReport = none := by decide
theorem test_witness_WaitingKeyShowsTheHold_held :
    (noKey.withFetchWord 16 0xF40A).fault = none ∧ (noKey.withFetchWord 16 0xF40A).active = true ∧
      (noKey.withFetchWord 16 0xF40A).waitingKey = true := by decide
/-- W_KEY at the last fetchable address with key 7 reported. -/
def lastKeyWait : State := State.withFetchWord { start with pc := 0xFFD } 16 0xF40A
theorem test_witness_WaitingKeyShowsTheHold_done :
    lastKeyWait.fault = none ∧ lastKeyWait.active = true ∧ lastKeyWait.pc.toNat + 2 ≤ lastKeyWait.memSize ∧
      decodeWord lastKeyWait.wordAtPc = some (.wKey 0x4) ∧ lastKeyWait.waitingKey = false := by decide
/-- The middle of a hold at the last fetchable address: no key in the first attempt, key 7 in the next, the
gate dropped in between. -/
def midHold : State := { lastKeyWait.setRun false with holding := true }
theorem test_witness_HeldCycleOutlivesRunGate :
    (midHold.fault = none ∧ midHold.holding = true ∧ midHold.pc.toNat + 2 ≤ midHold.memSize ∧
      decodeWord midHold.wordAtPc = some (.wKey 0x4) ∧ midHold.input.keyReport = some 0x7 ∧
      midHold.run = false) ∧
      State.input { midHold with script := noKey.script } = ⟨0x0400, none, 0xB7⟩ := by decide
/-- A RET with one call outstanding (vector F1). -/
def returning : State :=
  State.withFetchWord { start with pc := 0x300, sp := 1, stack := start.stack.set 0 0x204 } 16 0x00EE

/-- A state in the middle of a run meets the invariant, and steps. -/
theorem test_witness_EveryStepKeepsInvariant :
    returning.Inv ∧ ∃ t, step returning = .next t := by
  refine ⟨⟨by decide, by decide, by decide, by decide, fun k hk => ?_, nofun⟩, _, rfl⟩
  obtain rfl : k = 0 := Nat.lt_one_iff.1 hk
  decide
theorem test_witness_FaultsArePrecise :
    start.fault = none ∧ ∃ t, exec .ret start = .next t ∧ t.fault = some ⟨.stackUnderflow, 0⟩ :=
    ⟨rfl, _, rfl, rfl⟩
theorem test_witness_FaultCausesExactly :
    returning.fault = none ∧ returning.active = true ∧ returning.sp ≤ returning.stackCapacity ∧
      ∃ t, step returning = .next t := ⟨rfl, rfl, by decide, _, rfl⟩
theorem test_witness_OnlyNamedRegistersChange :
    (∃ t, exec (.add 0x1 0x2) start = .next t) ∧ mayWriteReg 0x2 (.add 0x1 0x2) = false ∧
      mayWriteReg 0xF (.ldVxI 0xE) = false := ⟨⟨_, rfl⟩, by decide, by decide⟩
theorem test_witness_FlagIsZeroOrOne :
    start.fault = none ∧ writesFlag (.add 0xF 0x1) = true ∧
      ∃ t, exec (.add 0xF 0x1) start = .next t ∧ t.fault = none := ⟨rfl, rfl, _, rfl, rfl⟩
theorem test_witness_OnlyOwnersWriteState :
    (∃ t, exec (.ldByte 0x1 0x2) start = .next t) ∧ storesMemory (.ldByte 0x1 0x2) = false ∧
      writesDisplay (.ldByte 0x1 0x2) = false ∧ usesStack (.ldByte 0x1 0x2) = false ∧
      writesIndex (.ldByte 0x1 0x2) = false ∧ movesPc (.ldByte 0x1 0x2) = false :=
    ⟨⟨_, rfl⟩, rfl, rfl, rfl, rfl, rfl⟩
theorem test_witness_TimersStepOncePerCompletedCycle :
    start.fault = none ∧ (∃ t, exec .cls start = .next t ∧ t.fault.isSome = false) ∧
      (∃ t, exec .ret start = .next t ∧ t.fault.isSome = true) ∧
      (∃ t, exec (.wKey 0x4) noKey = .next t) ∧ noKey.fault = none ∧ noKey.input.keyReport = none ∧
      (∀ x, Instr.cls ≠ .ldDtVx x) ∧ ∀ x, Instr.cls ≠ .ldStVx x :=
    ⟨rfl, ⟨_, rfl, rfl⟩, ⟨_, rfl, rfl⟩, ⟨_, rfl⟩, rfl, rfl, nofun, nofun⟩
theorem test_witness_InputsReachOnlyFourInstructions :
    SameBlock start noKey ∧ start.params = noKey.params ∧ samplesInput .cls = false ∧
      (∃ t, exec .cls start = .next t) ∧ (∃ t, exec .cls noKey = .next t) ∧
      start.input = State.input { start with tick := 9 } ∧ SameBlock start { start with tick := 9 } := by
  refine ⟨?_, rfl, rfl, ⟨_, rfl⟩, ⟨_, rfl⟩, rfl, ?_⟩ <;>
    exact ⟨rfl, rfl, rfl, rfl, rfl, rfl, rfl, rfl, rfl, rfl⟩
theorem test_witness_PolicyReachesOnlySys :
    (∀ nnn, Instr.cls ≠ .sys nnn) ∧ (∃ t, exec .cls start = .next t) ∧
      ∃ t, exec .cls { start with params := { start.params with unknownOpcode := .failFast } } = .next t :=
    ⟨nofun, ⟨_, rfl⟩, _, rfl⟩
theorem test_witness_EventsOfACycle :
    start.fault = none ∧ (∃ t, exec (.drw 0 0 0) start = .next t ∧ t.fault.isSome = false) ∧
      ∃ t, exec (.drw 0 0 0) (withI 0x1000) = .next t ∧ t.fault.isSome = true :=
    ⟨rfl, ⟨_, rfl, rfl⟩, _, rfl, rfl⟩
theorem test_witness_CanonicalMemoriesAreEqual :
    Memory.wf defaultFont 4095 [(0x300, 5)] = true ∧
      Memory.wf defaultFont 4095 (Memory.write defaultFont [] 0x300 5) = true ∧
      ∀ a, Memory.read defaultFont [(0x300, 5)] a =
        Memory.read defaultFont (Memory.write defaultFont [] 0x300 5) a :=
    ⟨by decide, by decide, fun _ => rfl⟩
/-- The last byte of memory, and one past it. -/
theorem test_witness_BootPlacesTheImage_loader :
    ((start.setRun false).memWf = true ∧ (start.setRun false).run = false ∧
      (start.setRun false).holding = false ∧ 0xFFE + [(5 : Byte)].length ≤ (start.setRun false).memSize) ∧
      start.run = true ∧ midHold.holding = true ∧ 0xFFF + [(5 : Byte)].length > (start.setRun false).memSize := by
  decide
theorem test_witness_BootPlacesTheImage :
    (List.replicate 3583 (0 : Byte)).length ≤ maxProgBytes start.params.memSize ∧
      maxProgBytes start.params.memSize < (List.replicate 3584 (0 : Byte)).length := by
  simp only [List.length_replicate]; decide

/-! ## Memory and interface -/

/-- Writing what an unlisted address reads as removes the entry, so equal memories are equal lists. -/
theorem test_memory_canonical :
    Memory.write defaultFont (Memory.write defaultFont [] 0x300 5) 0x300 0 = [] ∧
      Memory.write defaultFont [] 0x000 0xF0 = [] ∧
      Memory.write defaultFont (Memory.write defaultFont [] 0x301 1) 0x300 2 = [(0x300, 2), (0x301, 1)] ∧
      Memory.wf defaultFont 4095 [(0x301, 1), (0x300, 2)] = false ∧
      Memory.wf defaultFont 4095 [(0xFFF, 1)] = false ∧
      Memory.wf defaultFont 4095 [(0x300, 0)] = false := by decide
/-- R66, D20: another font is what reset leaves, here 80 bytes of 0x3C. -/
theorem test_other_font :
    (after { start with params := { start.params with font := Vector.replicate 80 0x3C } } 0xF065).map
      (fun t => (t.getV 0, t.readMem 0x4F, t.readMem 0x50)) = some (0x3C, 0x3C, 0) := by decide
/-- D1: with 4096 bytes the address 0xFFF is backed. -/
theorem test_other_memory_size :
    (after { (start.setV 0 9) with params := { start.params with memSize := .bytes4096 }, i := 0xFFF } 0xF055).map
      (fun t => (t.readMem 0xFFF, t.fault)) = some (9, none) := by decide
/-- R128: the gate is dropped while W_KEY holds; the report of the next attempt still completes the cycle, and
then the block is paused. -/
theorem test_hold_outlives_run_gate :
    (match step (State.withFetchWord { start with script := noKey.script ++ start.script } 16 0xF40A) with
      | .next t => match step (t.setRun false) with
        | .next u => some ((u.getV 4, u.pc, u.holding), u.action == .paused)
        | _ => none
      | _ => none) = some ((0x07, 0x202, false), true) := by decide
/-- R276: the loader writes a stopped block and keeps its state, and is refused while the gate is asserted. -/
theorem test_loader_write :
    ((State.setRun { start with i := 0x123 } false).loaderWrite 0x300 [1, 2]).map
      (fun t => (t.readBytes 0x300 2, t.i, t.pc)) = some ([1, 2], 0x123, 0x200) ∧
      start.loaderWrite 0x300 [1, 2] = none := by decide
/-- The host's interface runs the model: two steps of P7's first words (spec/95_test_vectors.md). -/
theorem test_core_runs_two_steps :
    (match Host.Core.run Sys2Proof.core 2
        { start with mem := [(0x200, 0x60), (0x201, 0x05), (0x202, 0xF0), (0x203, 0x15)] } with
      | .next t => some (State.dt t, State.pc t)
      | .fault _ => none
      | .refused _ => none) = some (4, 0x204) := by decide

end Sys2Proof.Tests
end

namespace Sys2Proof.Machine

open Sys2Proof

/-! # The state: who writes what, the invariant, and where the host's inputs reach (spec/10_state.md) -/

/-! ## What a cycle of an instruction can do, said once -/

/-- What the handler of `i` can leave when it runs to its end in the cycle that began in `s`. The constructors
are the ways a handler writes the state, not the instructions; each carries the part of `i`'s write set that
allows it (spec/10_state.md R21 to R32) and the checks that the handler made first. -/
inductive Completed (i : Instr) (s : State) : State → Prop
  /-- Registers of the write set, and nothing else. -/
  | registers (v : Vector Byte 16)
      (hv : ∀ r, mayWriteReg r i = false → State.getV { s.advancePc with v := v } r = s.getV r) :
      Completed i s { s.advancePc with v := v }
  /-- The display buffer, VF where it reports a collision, and an event. -/
  | display (fb : FrameBuffer) (v : Vector Byte 16) (e : Event) (hd : writesDisplay i = true)
      (hv : ∀ r, mayWriteReg r i = false → State.getV { s.advancePc with v := v } r = s.getV r) :
      Completed i s (State.emit { s.advancePc with v := v, fb := fb } e)
  /-- `I`. -/
  | index (w : Word) (hi : writesIndex i = true) : Completed i s (s.advancePc.setI w)
  /-- Bytes of memory from `I` upwards, all of them backed. -/
  | store (bytes : List Byte) (hs : storesMemory i = true) (hb : s.i.toNat + bytes.length ≤ s.memSize) :
      Completed i s (s.advancePc.writeBytes s.i.toNat bytes)
  /-- `PC`, inside the bound that R24 derives if the fetch was admitted. -/
  | transfer (w : Word) (hm : movesPc i = true) (hw : s.pc.toNat + 2 ≤ s.memSize → w.toNat ≤ 0x10FE) :
      Completed i s (s.advancePc.setPc w)
  /-- A push and a transfer. -/
  | call (nnn : Addr12) (hu : usesStack i = true) (hm : movesPc i = true) (hroom : s.sp < s.stackCapacity) :
      Completed i s ((s.advancePc.pushed (s.pc + 2)).setPc (zextAddr nnn))
  /-- A pop and a transfer to what it gives. -/
  | ret (hu : usesStack i = true) (hm : movesPc i = true) (hsp : s.sp ≠ 0) :
      Completed i s (s.advancePc.popped.setPc s.topOfStack)
  /-- The timers. -/
  | timers (dt st : Byte) : Completed i s { s.advancePc with dt := dt, st := st }
  /-- An event alone. -/
  | log (e : Event) : Completed i s (s.advancePc.emit e)

/-- The next states of the cycle of `i` from `s` (spec/40_pipeline_and_dispatch.md R124, R127, R129). -/
inductive CycleEnd (i : Instr) (s : State) : State → Prop
  | done {u : State} (hu : Completed i s u) : CycleEnd i s u.updateTimers.nextInput
  | raised (f : FaultRecord) : CycleEnd i s (s.advancePc.raise f).nextInput
  | held (x : Reg) (hi : i = .wKey x) : CycleEnd i s s.held

theorem completed_setV {i : Instr} {x : Reg} (hx : ∀ r, mayWriteReg r i = (r == x)) (s : State) (b : Byte) :
    Completed i s (s.advancePc.setV x b) :=
  .registers _ fun r hr => State.getV_setV_ne s.advancePc b (by simpa [hx] using hr)

theorem completed_setResultFlag {i : Instr} {x : Reg} (hx : ∀ r, mayWriteReg r i = (r == x || r == 15))
    (s : State) (b : Byte) (c : Bool) : Completed i s (s.advancePc.setResultFlag x b c) :=
  .registers _ fun r hr => sameRegsBut_setResultFlag s x b c r (by simpa [hx] using hr)

theorem completed_loadRegs (x : Reg) (s : State) (a : Nat) :
    Completed (.ldVxI x) s (s.advancePc.loadRegs a (x.toNat + 1)) := by
  have hx := x.isLt
  rw [State.loadRegs_eq]
  refine .registers _ fun r hr => ?_
  have hr : ¬ r.toNat < x.toNat + 1 := by simpa [mayWriteReg, Nat.lt_succ_iff] using hr
  rw [← State.loadRegs_eq, State.getV_loadRegs _ _ _ (by omega), if_neg hr, getV_advancePc]

theorem completed_skipIf {i : Instr} (hm : movesPc i = true) (s : State) (c : Bool) :
    Completed i s (s.advancePc.skipIf c) := by
  rw [State.skipIf_eq]
  refine .transfer _ hm fun hp => ?_
  have := s.memSize_cases
  split <;> simp only [State.advancePc_pc] <;> bv_omega

theorem unknownOpcode_failFast {s : State} (h : s.params.unknownOpcode = .failFast) (ir : Word) :
    unknownOpcode ir s = .raised ⟨.unknownOpcode, ir⟩ := by
  rw [unknownOpcode, h]

theorem unknownOpcode_skip {s : State} (h : s.params.unknownOpcode = .skip) (ir : Word) :
    unknownOpcode ir s = .done (s.emit (.unknownOpcode ir)) := by
  rw [unknownOpcode, h]

/-- A word without a handler is logged or raises, by the policy (R125). -/
theorem unknownOpcode_cases (ir : Word) (s : State) :
    unknownOpcode ir s = .done (s.emit (.unknownOpcode ir)) ∨
      unknownOpcode ir s = .raised ⟨.unknownOpcode, ir⟩ := by
  cases h : s.params.unknownOpcode with
  | failFast => exact .inr (unknownOpcode_failFast h ir)
  | skip => exact .inl (unknownOpcode_skip h ir)

/-- Every instruction's cycle answers a next state, and one of the ends above. -/
theorem exec_total (i : Instr) (s : State) : ∃ t, exec i s = .next t ∧ CycleEnd i s t := by
  cases i with
  | sys nnn =>
    refine ⟨_, exec_sys nnn s, ?_⟩
    obtain e | e := unknownOpcode_cases (wordNNN 0x0 nnn) s.advancePc <;> rw [e]
    · exact .done (.log _)
    · exact .raised _
  | cls => exact ⟨_, exec_cls s, .done (.display _ s.v _ rfl fun _ _ => rfl)⟩
  | ret =>
    by_cases h : s.sp = 0
    · exact ⟨_, exec_ret_empty h, .raised _⟩
    · exact ⟨_, exec_ret h, .done (.ret rfl rfl h)⟩
  | jp nnn =>
    refine ⟨_, exec_jp nnn s, .done (.transfer _ rfl fun _ => ?_)⟩
    rw [toNat_zextAddr]; omega
  | call nnn =>
    by_cases h : s.stackCapacity ≤ s.sp
    · exact ⟨_, exec_call_full nnn h, .raised _⟩
    · exact ⟨_, exec_call nnn h, .done (.call nnn rfl rfl (by omega))⟩
  | seByte x kk => exact ⟨_, exec_seByte x kk s, .done (completed_skipIf rfl _ _)⟩
  | sneByte x kk => exact ⟨_, exec_sneByte x kk s, .done (completed_skipIf rfl _ _)⟩
  | seReg x y => exact ⟨_, exec_seReg x y s, .done (completed_skipIf rfl _ _)⟩
  | sneReg x y => exact ⟨_, exec_sneReg x y s, .done (completed_skipIf rfl _ _)⟩
  | ldByte x kk => exact ⟨_, exec_ldByte x kk s, .done (completed_setV (fun _ => rfl) _ _)⟩
  | addByte x kk => exact ⟨_, exec_addByte x kk s, .done (completed_setV (fun _ => rfl) _ _)⟩
  | ldVxVy x y => exact ⟨_, exec_ldVxVy x y s, .done (completed_setV (fun _ => rfl) _ _)⟩
  | or x y => exact ⟨_, exec_or x y s, .done (completed_setV (fun _ => rfl) _ _)⟩
  | and x y => exact ⟨_, exec_and x y s, .done (completed_setV (fun _ => rfl) _ _)⟩
  | xor x y => exact ⟨_, exec_xor x y s, .done (completed_setV (fun _ => rfl) _ _)⟩
  | add x y => exact ⟨_, exec_add x y s, .done (completed_setResultFlag (fun _ => rfl) _ _ _)⟩
  | sub x y => exact ⟨_, exec_sub x y s, .done (completed_setResultFlag (fun _ => rfl) _ _ _)⟩
  | shr x => exact ⟨_, exec_shr x s, .done (completed_setResultFlag (fun _ => rfl) _ _ _)⟩
  | subn x y => exact ⟨_, exec_subn x y s, .done (completed_setResultFlag (fun _ => rfl) _ _ _)⟩
  | shl x => exact ⟨_, exec_shl x s, .done (completed_setResultFlag (fun _ => rfl) _ _ _)⟩
  | ldI nnn => exact ⟨_, exec_ldI nnn s, .done (.index _ rfl)⟩
  | ldV0 nnn =>
    refine ⟨_, exec_ldV0 nnn s, .done (.transfer _ rfl fun _ => ?_)⟩
    rw [BitVec.toNat_add, toNat_zextAddr, toNat_zextByte]; omega
  | rnd x kk => exact ⟨_, exec_rnd x kk s, .done (completed_setV (fun _ => rfl) _ _)⟩
  | drw x y n =>
    by_cases hi : s.i.toNat + n.toNat ≤ s.memSize
    · by_cases hb : blitInBounds (s.getV x).toNat (s.getV y).toNat n.toNat = true
      · refine ⟨_, exec_drw hi hb, .done (.display _ _ _ rfl fun r hr => ?_)⟩
        have hflag : r ≠ flagReg := by simpa [mayWriteReg, flagReg] using hr
        exact State.getV_setV_ne s.advancePc _ hflag
      · exact ⟨_, exec_drw_display hi hb, .raised _⟩
    · exact ⟨_, exec_drw_sprite hi, .raised _⟩
  | skp x =>
    by_cases h : (s.getV x).toNat ≤ 15
    · exact ⟨_, exec_skp h, .done (completed_skipIf rfl _ _)⟩
    · exact ⟨_, exec_skp_above h, .raised _⟩
  | sknp x =>
    by_cases h : (s.getV x).toNat ≤ 15
    · exact ⟨_, exec_sknp h, .done (completed_skipIf rfl _ _)⟩
    · exact ⟨_, exec_sknp_above h, .raised _⟩
  | ldVxDt x => exact ⟨_, exec_ldVxDt x s, .done (completed_setV (fun _ => rfl) _ _)⟩
  | wKey x =>
    cases h : s.input.keyReport with
    | none => exact ⟨_, exec_wKey_hold x h, .held x rfl⟩
    | some k => exact ⟨_, exec_wKey x h, .done (completed_setV (fun _ => rfl) _ _)⟩
  | ldDtVx x => exact ⟨_, exec_ldDtVx x s, .done (.timers _ s.st)⟩
  | ldStVx x => exact ⟨_, exec_ldStVx x s, .done (.timers s.dt _)⟩
  | addIVx x => exact ⟨_, exec_addIVx x s, .done (.index _ rfl)⟩
  | ldFVx x =>
    by_cases h : (s.getV x).toNat ≤ 15
    · exact ⟨_, exec_ldFVx h, .done (.index _ rfl)⟩
    · exact ⟨_, exec_ldFVx_above h, .raised _⟩
  | ldBVx x =>
    by_cases h : s.i.toNat + 3 ≤ s.memSize
    · exact ⟨_, exec_ldBVx x h, .done (.store _ rfl h)⟩
    · exact ⟨_, exec_ldBVx_out x h, .raised _⟩
  | ldIVx x =>
    by_cases h : s.i.toNat + (x.toNat + 1) ≤ s.memSize
    · exact ⟨_, exec_ldIVx x h, .done (.store _ rfl (by rwa [State.regRange, State.length_regList]))⟩
    · exact ⟨_, exec_ldIVx_out x h, .raised _⟩
  | ldVxI x =>
    by_cases h : s.i.toNat + (x.toNat + 1) ≤ s.memSize
    · exact ⟨_, exec_ldVxI x h, .done (completed_loadRegs x s _)⟩
    · exact ⟨_, exec_ldVxI_out x h, .raised _⟩

/-- Inversion: a next state of `exec` is one of the ends above. -/
theorem cycleEnd_of_exec {i : Instr} {s t : State} (h : exec i s = .next t) : CycleEnd i s t := by
  obtain ⟨u, hu, hend⟩ := exec_total i s
  cases hu.symm.trans h
  exact hend

/-! ## Frames of a cycle -/

section Frames

variable {i : Instr} {s t : State}

theorem CycleEnd.getV_eq (h : CycleEnd i s t) {r : Reg} (hr : mayWriteReg r i = false) :
    t.getV r = s.getV r := by
  cases h with
  | done hu =>
    cases hu with
    | registers v hv | display fb v e hd hv => exact hv r hr
    | _ => rfl
  | _ => rfl

theorem CycleEnd.mem_eq (h : CycleEnd i s t) (hi : storesMemory i = false) : t.mem = s.mem := by
  cases h with
  | done hu =>
    cases hu with
    | store bytes hs hb => simp [hs] at hi
    | _ => rfl
  | _ => rfl

theorem CycleEnd.fb_eq (h : CycleEnd i s t) (hi : writesDisplay i = false) : t.fb = s.fb := by
  cases h with
  | done hu =>
    cases hu with
    | display fb v e hd hv => simp [hd] at hi
    | _ => rfl
  | _ => rfl

theorem CycleEnd.sameStack (h : CycleEnd i s t) (hi : usesStack i = false) : SameStack s t := by
  cases h with
  | done hu =>
    cases hu with
    | call nnn hu hm hroom => simp [hu] at hi
    | ret hu hm hsp => simp [hu] at hi
    | _ => exact ⟨rfl, rfl⟩
  | _ => exact ⟨rfl, rfl⟩

theorem CycleEnd.i_eq (h : CycleEnd i s t) (hi : writesIndex i = false) : t.i = s.i := by
  cases h with
  | done hu =>
    cases hu with
    | index w hw => simp [hw] at hi
    | _ => rfl
  | _ => rfl

theorem CycleEnd.pc_eq (h : CycleEnd i s t) (hi : movesPc i = false) : t.pc = s.pc + 2 := by
  cases h with
  | done hu =>
    cases hu with
    | transfer w hm hw => simp [hm] at hi
    | call nnn hu hm hroom => simp [hm] at hi
    | ret hu hm hsp => simp [hm] at hi
    | _ => rfl
  | raised f => rfl
  | held x hx => subst hx; cases hi

theorem CycleEnd.params_eq (h : CycleEnd i s t) : t.params = s.params := by
  cases h with
  | done hu => cases hu <;> rfl
  | _ => rfl

theorem CycleEnd.run_eq (h : CycleEnd i s t) : t.run = s.run := by
  cases h with
  | done hu => cases hu <;> rfl
  | _ => rfl

end Frames

/-! ## The invariant -/

/-- The invariant at a cycle boundary, from a state whose memory and stack are the same. -/
theorem State.Inv.of_sameStores {s t : State} (hs : s.Inv) (hparams : t.params = s.params)
    (hmem : t.mem = s.mem) (hstack : SameStack s t) (hpc : t.pc.toNat ≤ 0x10FE) (hhold : t.holding = false) :
    t.Inv := by
  obtain ⟨hsp, hst⟩ := hstack
  have hcap : t.stackCapacity = s.stackCapacity := by rw [State.stackCapacity, hparams]; rfl
  have hsize : t.memSize = s.memSize := by rw [State.memSize, hparams]; rfl
  have hentry (k : Nat) : t.stackEntry k = s.stackEntry k := by rw [State.stackEntry, hst]; rfl
  refine ⟨?_, ?_, ?_, hpc, fun k hk => ?_, fun h => ?_⟩
  · rw [State.memWf, hparams, hsize, hmem]; exact hs.memWf
  · rw [hst, hcap]; exact hs.stackLength
  · rw [hsp, hcap]; exact hs.spBound
  · rw [hentry, hsize]; exact hs.returnBound k (hsp ▸ hk)
  · rw [hhold] at h; cases h

/-- An admitted fetch leaves `PC` at most `MEM_SIZE` after its advance (R63). -/
theorem toNat_pc_add_two_le {s : State} (hp : s.pc.toNat + 2 ≤ s.memSize) : (s.pc + 2).toNat ≤ s.memSize := by
  have := s.memSize_cases
  bv_omega

theorem State.memSize_le (s : State) : s.memSize ≤ 0x10FE := by
  have := s.memSize_cases
  omega

theorem inv_raised {s : State} (hs : s.Inv) (hp : s.pc.toNat + 2 ≤ s.memSize) (f : FaultRecord) :
    (s.advancePc.raise f).nextInput.Inv :=
  hs.of_sameStores rfl rfl ⟨rfl, rfl⟩ ((toNat_pc_add_two_le hp).trans s.memSize_le) rfl

theorem inv_logged {s : State} (hs : s.Inv) (hp : s.pc.toNat + 2 ≤ s.memSize) (e : Event) :
    (s.advancePc.emit e).updateTimers.nextInput.Inv :=
  hs.of_sameStores rfl rfl ⟨rfl, rfl⟩ ((toNat_pc_add_two_le hp).trans s.memSize_le) rfl

/-- A push of an address that memory reaches keeps every return address inside `MEM_SIZE` (R24, R29). -/
theorem inv_called {s : State} (hs : s.Inv) (hp : s.pc.toNat + 2 ≤ s.memSize) (hroom : s.sp < s.stackCapacity)
    (nnn : Addr12) : ((s.advancePc.pushed (s.pc + 2)).setPc (zextAddr nnn)).updateTimers.nextInput.Inv where
  memWf := hs.memWf
  stackLength := (List.length_set ..).trans hs.stackLength
  spBound := hroom
  pcBound := by
    have hn := nnn.isLt
    change (zextAddr nnn).toNat ≤ 0x10FE
    rw [toNat_zextAddr]; omega
  returnBound k hk := by
    change k < s.sp + 1 at hk
    change ((s.advancePc.pushed (s.pc + 2)).stackEntry k).toNat ≤ s.memSize
    rw [State.stackEntry_pushed]
    split
    · exact toNat_pc_add_two_le hp
    · next hne =>
      have hlen := hs.stackLength
      exact hs.returnBound k (by simp only [State.advancePc_sp, State.advancePc_stack] at hne; omega)
  holdingKey := nofun

/-- A pop goes to a return address, which is inside `MEM_SIZE` (R24, R30). -/
theorem inv_returned {s : State} (hs : s.Inv) (hsp : s.sp ≠ 0) :
    (s.advancePc.popped.setPc s.topOfStack).updateTimers.nextInput.Inv where
  memWf := hs.memWf
  stackLength := hs.stackLength
  spBound := (Nat.sub_le s.sp 1).trans hs.spBound
  pcBound := (hs.returnBound (s.sp - 1) (by omega)).trans s.memSize_le
  returnBound k hk := hs.returnBound k (Nat.lt_of_lt_of_le hk (Nat.sub_le s.sp 1))
  holdingKey := nofun

theorem inv_stored {s : State} (hs : s.Inv) (hp : s.pc.toNat + 2 ≤ s.memSize) (bytes : List Byte)
    (hb : s.i.toNat + bytes.length ≤ s.memSize) :
    (s.advancePc.writeBytes s.i.toNat bytes).updateTimers.nextInput.Inv where
  memWf := State.memWf_writeBytes hs.memWf s.i.toNat bytes hb
  stackLength := hs.stackLength
  spBound := hs.spBound
  pcBound := (toNat_pc_add_two_le hp).trans s.memSize_le
  returnBound := hs.returnBound
  holdingKey := nofun

/-- A completed handler keeps the invariant: only a store, a push and a pop touch what it speaks of besides
`PC`. -/
theorem Completed.inv {i : Instr} {s u : State} (h : Completed i s u) (hs : s.Inv)
    (hp : s.pc.toNat + 2 ≤ s.memSize) : u.updateTimers.nextInput.Inv := by
  have hnext := (toNat_pc_add_two_le hp).trans s.memSize_le
  cases h with
  | store bytes hst hb => exact inv_stored hs hp bytes hb
  | call nnn hu hm hroom => exact inv_called hs hp hroom nnn
  | ret hu hm hsp => exact inv_returned hs hsp
  | transfer w hm hw => exact hs.of_sameStores rfl rfl ⟨rfl, rfl⟩ (hw hp) rfl
  | _ => exact hs.of_sameStores rfl rfl ⟨rfl, rfl⟩ hnext rfl

/-- A hold leaves the W_KEY at `PC` in progress, so the next attempt runs it again (R127). -/
theorem inv_held {s : State} (hs : s.Inv) (hf : s.fault = none) (hp : s.pc.toNat + 2 ≤ s.memSize) {x : Reg}
    (hd : decodeWord s.wordAtPc = some (.wKey x)) : s.held.Inv where
  memWf := hs.memWf
  stackLength := hs.stackLength
  spBound := hs.spBound
  pcBound := hs.pcBound
  returnBound := hs.returnBound
  holdingKey _ := by
    have hact : s.held.action = s.held.fetchDecode :=
      State.action_active hf (State.active_of_holding rfl) hp
    have hword : decodeWord s.held.wordAtPc = some (.wKey x) := hd
    exact ⟨x, by rw [hact, State.fetchDecode_eq, hword]⟩

theorem inv_fetchFault {s : State} (hs : s.Inv) : s.fetchFault.Inv :=
  hs.of_sameStores rfl rfl ⟨rfl, rfl⟩ hs.pcBound rfl

theorem inv_unknownCycle {s t : State} (hs : s.Inv) (hp : s.pc.toNat + 2 ≤ s.memSize) {ir : Word}
    (h : unknownCycle ir s = .next t) : t.Inv := by
  rw [unknownCycle, runCycle_eq] at h
  obtain e | e := unknownOpcode_cases ir s.advancePc <;> rw [e] at h <;> cases h
  · exact inv_logged hs hp _
  · exact inv_raised hs hp _

/-- Settles O46, by the cases of a step, and for a decoded instruction by the ends of its cycle. -/
theorem everyStepKeepsInvariant : Obligations.EveryStepKeepsInvariant := by
  intro s t hs hstep
  obtain ⟨hf, ⟨-, rfl⟩ | ⟨-, -, rfl⟩ | ⟨-, hp, -, h⟩ | ⟨i, -, hp, hd, h⟩⟩ := step_cases hstep
  · exact hs
  · exact inv_fetchFault hs
  · exact inv_unknownCycle hs hp h
  · cases cycleEnd_of_exec h with
    | done hu => exact hu.inv hs hp
    | raised f => exact inv_raised hs hp f
    | held x hi => subst hi; exact inv_held hs hf hp hd

theorem inv_resetWith (p : Config.Params) : (State.resetWith p).Inv where
  memWf := Memory.wf_nil _ _
  stackLength := List.length_replicate
  spBound := Nat.zero_le _
  pcBound := by change (BitVec.ofNat 16 progBase).toNat ≤ 0x10FE; decide
  returnBound := nofun
  holdingKey := nofun

/-- Settles O47: the reset state is that of the default parameters. -/
theorem resetMeetsInvariant : Obligations.ResetMeetsInvariant :=
  ⟨inv_resetWith defaultParams, inv_resetWith⟩

/-! ## Write sets -/

/-- Settles O50, by the frame of registers of a cycle. -/
theorem onlyNamedRegistersChange : Obligations.OnlyNamedRegistersChange :=
  fun _ _ _ _ h hr => (cycleEnd_of_exec h).getV_eq hr

/-- Settles O52: each part of the state has its frame lemma. -/
theorem onlyOwnersWriteState : Obligations.OnlyOwnersWriteState := by
  intro i s t h
  have hend := cycleEnd_of_exec h
  exact ⟨hend.mem_eq, hend.fb_eq, hend.sameStack, hend.i_eq, hend.pc_eq, hend.params_eq, hend.run_eq⟩

/-! ## The flag -/

theorem flagByte_eq (c : Bool) : flagByte c = 0 ∨ flagByte c = 1 := by
  cases c
  · exact .inl rfl
  · exact .inr rfl

theorem flag_setResultFlag (s : State) (x : Reg) (b : Byte) (c : Bool) :
    (s.setResultFlag x b c).updateTimers.nextInput.getV 15 = flagByte c :=
  State.getV_setV_self _ _ _

theorem flag_drawn (s : State) (x y : Byte) (sprite : List Byte) :
    (s.drawn x y sprite).updateTimers.nextInput.getV 15 =
      flagByte (blitCollides s.fb x.toNat y.toNat sprite) :=
  State.getV_setV_self _ _ _

/-- A flag writer that completes leaves some flag in VF; the other end is a raise, of DRW alone. -/
theorem flagWriter_cases {i : Instr} {s t : State} (hi : writesFlag i = true) (h : exec i s = .next t) :
    (∃ c, t.getV 15 = flagByte c) ∨ t.fault.isSome = true := by
  cases i with
  | add x y => rw [exec_add] at h; cases h; exact .inl ⟨_, flag_setResultFlag _ _ _ _⟩
  | sub x y => rw [exec_sub] at h; cases h; exact .inl ⟨_, flag_setResultFlag _ _ _ _⟩
  | shr x => rw [exec_shr] at h; cases h; exact .inl ⟨_, flag_setResultFlag _ _ _ _⟩
  | subn x y => rw [exec_subn] at h; cases h; exact .inl ⟨_, flag_setResultFlag _ _ _ _⟩
  | shl x => rw [exec_shl] at h; cases h; exact .inl ⟨_, flag_setResultFlag _ _ _ _⟩
  | drw x y n =>
    by_cases hm : s.i.toNat + n.toNat ≤ s.memSize
    · by_cases hb : blitInBounds (s.getV x).toNat (s.getV y).toNat n.toNat = true
      · rw [exec_drw hm hb] at h; cases h; exact .inl ⟨_, flag_drawn _ _ _ _⟩
      · rw [exec_drw_display hm hb] at h; cases h; exact .inr rfl
    · rw [exec_drw_sprite hm] at h; cases h; exact .inr rfl
  | _ => cases hi

/-- Settles O51: the flag is written last, so `X = 15` is no exception (R183). -/
theorem flagIsZeroOrOne : Obligations.FlagIsZeroOrOne := by
  intro i s t _ hi h ht
  obtain ⟨c, hc⟩ | hraised := flagWriter_cases hi h
  · rw [hc]; exact flagByte_eq c
  · rw [ht] at hraised; cases hraised

/-! ## Where the host's inputs reach -/

/-- `s` with the host's side of `u`: the run gate, the inputs to come, the events so far and the flag of a
cycle in progress. -/
def State.withHostOf (s u : State) : State :=
  { s with run := u.run, holding := u.holding, script := u.script, tick := u.tick, events := u.events }

/-- Two blocks that agree differ in the host's side only. -/
theorem eq_withHostOf {s u : State} (hb : SameBlock s u) (hp : s.params = u.params) : u = s.withHostOf u := by
  obtain ⟨hv, hi, hpc, hdt, hst, hstack, hsp, hmem, hfb, hfault⟩ := hb
  rw [State.withHostOf, ← hv, ← hi, ← hpc, ← hdt, ← hst, ← hstack, ← hsp, ← hmem, ← hfb, ← hfault, hp]

theorem sameBlock_of_eq {t w : State} (h : w = t.withHostOf w) : SameBlock t w := by
  rw [h]
  exact ⟨rfl, rfl, rfl, rfl, rfl, rfl, rfl, rfl, rfl, rfl⟩

theorem State.regList_withHostOf (s u : State) (n : Nat) : (s.withHostOf u).regList n = s.regList n := by
  induction n with
  | zero => rfl
  | succ n ih => rw [State.regList, ih]; rfl

theorem State.loadRegs_withHostOf (s u : State) (a n : Nat) :
    (s.withHostOf u).loadRegs a n = (s.loadRegs a n).withHostOf u := by
  induction n with
  | zero => rfl
  | succ n ih => rw [State.loadRegs, ih]; rfl

/-- A skip with the same condition is a transfer to the same place. -/
theorem sameBlock_skipIf (s u : State) (c : Bool) : SameBlock (s.advancePc.skipIf c).updateTimers.nextInput
    ((s.withHostOf u).advancePc.skipIf c).updateTimers.nextInput := by
  rw [State.skipIf_eq, State.skipIf_eq]
  exact sameBlock_of_eq rfl

/-- From two states that differ in the host's side only, an instruction's cycle reaches states that do so too,
unless it samples a port and the ports differ. -/
theorem exec_withHostOf (i : Instr) (s u : State)
    (hin : samplesInput i = false ∨ s.input = (s.withHostOf u).input) :
    ∃ t w, exec i s = .next t ∧ exec i (s.withHostOf u) = .next w ∧ SameBlock t w := by
  cases i with
  | cls | jp _ | ldV0 _ | ldByte _ _ | addByte _ _ | ldVxVy _ _ | or _ _ | and _ _ | xor _ _ | add _ _
  | sub _ _ | shr _ | subn _ _ | shl _ | ldI _ | addIVx _ | ldVxDt _ | ldDtVx _ | ldStVx _ =>
    exact ⟨_, _, rfl, rfl, sameBlock_of_eq rfl⟩
  | seByte _ _ | sneByte _ _ | seReg _ _ | sneReg _ _ =>
    exact ⟨_, _, rfl, rfl, sameBlock_skipIf s u _⟩
  | sys nnn =>
    refine ⟨_, _, exec_sys nnn s, exec_sys nnn _, ?_⟩
    have hpolicy : (s.withHostOf u).advancePc.params.unknownOpcode = s.params.unknownOpcode := rfl
    cases h : s.params.unknownOpcode with
    | failFast =>
      rw [unknownOpcode_failFast (s := s.advancePc) h, unknownOpcode_failFast (hpolicy.trans h)]
      exact sameBlock_of_eq rfl
    | skip =>
      rw [unknownOpcode_skip (s := s.advancePc) h, unknownOpcode_skip (hpolicy.trans h)]
      exact sameBlock_of_eq rfl
  | ret =>
    by_cases h : s.sp = 0
    · exact ⟨_, _, exec_ret_empty h, exec_ret_empty h, sameBlock_of_eq rfl⟩
    · exact ⟨_, _, exec_ret h, exec_ret h, sameBlock_of_eq rfl⟩
  | call nnn =>
    by_cases h : s.stackCapacity ≤ s.sp
    · exact ⟨_, _, exec_call_full nnn h, exec_call_full nnn h, sameBlock_of_eq rfl⟩
    · exact ⟨_, _, exec_call nnn h, exec_call nnn h, sameBlock_of_eq rfl⟩
  | ldFVx x =>
    by_cases h : (s.getV x).toNat ≤ 15
    · exact ⟨_, _, exec_ldFVx h, exec_ldFVx h, sameBlock_of_eq rfl⟩
    · exact ⟨_, _, exec_ldFVx_above h, exec_ldFVx_above h, sameBlock_of_eq rfl⟩
  | ldBVx x =>
    by_cases h : s.i.toNat + 3 ≤ s.memSize
    · exact ⟨_, _, exec_ldBVx x h, exec_ldBVx x h, sameBlock_of_eq rfl⟩
    · exact ⟨_, _, exec_ldBVx_out x h, exec_ldBVx_out x h, sameBlock_of_eq rfl⟩
  | ldIVx x =>
    by_cases h : s.i.toNat + (x.toNat + 1) ≤ s.memSize
    · have hregs : (s.withHostOf u).advancePc.regRange x = s.advancePc.regRange x :=
        State.regList_withHostOf s.advancePc u _
      exact ⟨_, _, exec_ldIVx x h, exec_ldIVx x h, by rw [hregs]; exact sameBlock_of_eq rfl⟩
    · exact ⟨_, _, exec_ldIVx_out x h, exec_ldIVx_out x h, sameBlock_of_eq rfl⟩
  | ldVxI x =>
    by_cases h : s.i.toNat + (x.toNat + 1) ≤ s.memSize
    · have hload (a n : Nat) :
          (s.withHostOf u).advancePc.loadRegs a n = (s.advancePc.loadRegs a n).withHostOf u :=
        State.loadRegs_withHostOf s.advancePc u a n
      exact ⟨_, _, exec_ldVxI x h, exec_ldVxI x h, by rw [hload]; exact sameBlock_of_eq rfl⟩
    · exact ⟨_, _, exec_ldVxI_out x h, exec_ldVxI_out x h, sameBlock_of_eq rfl⟩
  | drw x y n =>
    by_cases hi : s.i.toNat + n.toNat ≤ s.memSize
    · by_cases hb : blitInBounds (s.getV x).toNat (s.getV y).toNat n.toNat = true
      · exact ⟨_, _, exec_drw hi hb, exec_drw hi hb, sameBlock_of_eq rfl⟩
      · exact ⟨_, _, exec_drw_display hi hb, exec_drw_display hi hb, sameBlock_of_eq rfl⟩
    · exact ⟨_, _, exec_drw_sprite hi, exec_drw_sprite hi, sameBlock_of_eq rfl⟩
  | rnd x kk =>
    obtain hno | hin := hin
    · cases hno
    · exact ⟨_, _, exec_rnd x kk s, exec_rnd x kk _, by rw [← hin]; exact sameBlock_of_eq rfl⟩
  | skp x =>
    obtain hno | hin := hin
    · cases hno
    · by_cases h : (s.getV x).toNat ≤ 15
      · refine ⟨_, _, exec_skp h, exec_skp h, ?_⟩
        rw [State.keyDown, State.keyDown, ← hin]
        exact sameBlock_skipIf s u _
      · exact ⟨_, _, exec_skp_above h, exec_skp_above h, sameBlock_of_eq rfl⟩
  | sknp x =>
    obtain hno | hin := hin
    · cases hno
    · by_cases h : (s.getV x).toNat ≤ 15
      · refine ⟨_, _, exec_sknp h, exec_sknp h, ?_⟩
        rw [State.keyDown, State.keyDown, ← hin]
        exact sameBlock_skipIf s u _
      · exact ⟨_, _, exec_sknp_above h, exec_sknp_above h, sameBlock_of_eq rfl⟩
  | wKey x =>
    obtain hno | hin := hin
    · cases hno
    · cases h : s.input.keyReport with
      | none => exact ⟨_, _, exec_wKey_hold x h, exec_wKey_hold x (hin ▸ h), sameBlock_of_eq rfl⟩
      | some k => exact ⟨_, _, exec_wKey x h, exec_wKey x (hin ▸ h), sameBlock_of_eq rfl⟩

/-- Settles O54: agreeing blocks differ in the host's side only. -/
theorem inputsReachOnlyFourInstructions : Obligations.InputsReachOnlyFourInstructions := by
  intro i s u t w hb hp ht hw hin
  rw [eq_withHostOf hb hp] at hw hin
  obtain ⟨t', w', ht', hw', hsame⟩ := exec_withHostOf i s u hin
  cases ht'.symm.trans ht
  cases hw'.symm.trans hw
  exact hsame

/-! ## Canonical memories -/

/-- A listed address reads its entry, which the reset content is not. -/
theorem Memory.read_head_ne {f : Config.Font} {size lo a : Nat} {v : Byte} {m : Memory}
    (hm : Memory.wfFrom f size lo ((a, v) :: m) = true) :
    Memory.read f ((a, v) :: m) a ≠ Memory.unlisted f a := by
  obtain ⟨-, -, hv, -⟩ := (Memory.wfFrom_cons _ _ _ _).1 hm
  rwa [Memory.read, if_pos rfl]

/-- No memory that reads the same can begin above a listed address. -/
theorem Memory.head_le_head {f : Config.Font} {size lo a b : Nat} {v w : Byte} {m m' : Memory}
    (hm : Memory.wfFrom f size lo ((a, v) :: m) = true) (hm' : Memory.wfFrom f size lo ((b, w) :: m') = true)
    (hread : Memory.read f ((a, v) :: m) a = Memory.read f ((b, w) :: m') a) : b ≤ a := by
  by_contra hlt
  have hfrom : Memory.wfFrom f size b ((b, w) :: m') = true :=
    (Memory.wfFrom_cons _ _ _ _).2 ⟨le_rfl, ((Memory.wfFrom_cons _ _ _ _).1 hm').2⟩
  exact Memory.read_head_ne hm (hread.trans (Memory.read_below hfrom (by omega)))

/-- The tails of two memories with the same first address read the same if the memories do. -/
theorem Memory.read_tail_eq {f : Config.Font} {size a : Nat} {v w : Byte} {m m' : Memory}
    (hm : Memory.wfFrom f size (a + 1) m = true) (hm' : Memory.wfFrom f size (a + 1) m' = true)
    (hread : ∀ c, Memory.read f ((a, v) :: m) c = Memory.read f ((a, w) :: m') c) (c : Nat) :
    Memory.read f m c = Memory.read f m' c := by
  by_cases hc : c = a
  · rw [Memory.read_below hm (by omega), Memory.read_below hm' (by omega)]
  · have h := hread c
    rwa [Memory.read, Memory.read, if_neg hc, if_neg hc] at h

theorem Memory.wfFrom_ext {f : Config.Font} {size lo : Nat} {m m' : Memory}
    (hm : Memory.wfFrom f size lo m = true) (hm' : Memory.wfFrom f size lo m' = true)
    (hread : ∀ a, Memory.read f m a = Memory.read f m' a) : m = m' := by
  induction m generalizing lo m' with
  | nil =>
    cases m' with
    | nil => rfl
    | cons c m' => exact absurd (hread c.1).symm (Memory.read_head_ne hm')
  | cons c m ih =>
    obtain ⟨a, v⟩ := c
    cases m' with
    | nil => exact absurd (hread a) (Memory.read_head_ne hm)
    | cons d m' =>
      obtain ⟨b, w⟩ := d
      obtain rfl : a = b :=
        le_antisymm (Memory.head_le_head hm' hm (hread b).symm) (Memory.head_le_head hm hm' (hread a))
      obtain ⟨-, -, -, htail⟩ := (Memory.wfFrom_cons _ _ _ _).1 hm
      obtain ⟨-, -, -, htail'⟩ := (Memory.wfFrom_cons _ _ _ _).1 hm'
      have hvw : v = w := by simpa [Memory.read] using hread a
      rw [hvw, ih htail htail' (Memory.read_tail_eq htail htail' hread)]

/-- Settles O57, by induction on the list: the first entries agree, and so do the tails. -/
theorem canonicalMemoriesAreEqual : Obligations.CanonicalMemoriesAreEqual :=
  fun _ _ _ _ hm hm' hread => Memory.wfFrom_ext hm hm' hread

end Sys2Proof.Machine

namespace Sys2Proof.Machine

open Sys2Proof

/-! # Memory: a store over the next instruction (spec/20_memory.md R72, R74) -/

/-- An active block whose word at `PC` is an instruction runs it (R120 to R122). -/
theorem step_eq_exec {s : State} {i : Instr} (hf : s.fault = none) (ha : s.active = true)
    (hp : s.pc.toNat + 2 ≤ s.memSize) (hd : decodeWord s.wordAtPc = some i) : step s = exec i s := by
  rw [step, State.action_active hf ha hp, State.fetchDecode_eq, hd]

/-- A register of the stored range is read back at its own place (spec/43_index_memory.md R204). -/
theorem State.readMem_writeBytes_regRange {s : State} (hs : s.memWf = true) {a : Nat} {x : Reg}
    (hfit : a + (x.toNat + 1) ≤ s.memSize) (r : Reg) (hr : r.toNat ≤ x.toNat) :
    (s.writeBytes a (s.regRange x)).readMem (a + r.toNat) = s.getV r := by
  have hlen : (s.regRange x).length = x.toNat + 1 := s.length_regList _
  rw [State.readMem_writeBytes hs a _ _ (by rwa [hlen]), if_pos (by omega), Nat.add_sub_cancel_left,
    State.regRange, State.getD_regList s (rangeLength x) _ (Nat.lt_succ_of_le hr), BitVec.ofNat_toNat,
    BitVec.setWidth_eq]

/-- After a store of `V[0]` to `V[X]`, `X ≥ 1`, at `PC`, the word at `PC` is that of `V[0]` and `V[1]`. -/
theorem State.wordAtPc_writeBytes_regRange (s : State) (hs : s.memWf = true) {x : Reg}
    (hfit : s.pc.toNat + (x.toNat + 1) ≤ s.memSize) (hx : 1 ≤ x.toNat) :
    (s.writeBytes s.pc.toNat (s.regRange x)).wordAtPc = wordOfBytes (s.getV 0) (s.getV 1) :=
  congrArg₂ wordOfBytes (State.readMem_writeBytes_regRange hs hfit 0 (Nat.zero_le _))
    (State.readMem_writeBytes_regRange hs hfit 1 hx)

/-- Settles O12: the store is at the advanced `PC`, so the next fetch reads the stored bytes. -/
theorem storeIsSeenByTheNextFetch : Obligations.StoreIsSeenByTheNextFetch := by
  intro s x i hwf hf hrun hpc hd hx hi hfit hstored
  have hstep := step_eq_exec hf (State.active_of_run hrun) (by omega) hd
  rw [exec_ldIVx x hfit, hi] at hstep
  rw [hi] at hfit
  have hfetch : (s.pc + 2).toNat + 2 ≤ s.memSize := by omega
  have hword := s.advancePc.wordAtPc_writeBytes_regRange hwf hfit hx
  exact ⟨_, hstep, step_eq_exec hf (State.active_of_run hrun) hfetch ((congrArg decodeWord hword).trans hstored)⟩

end Sys2Proof.Machine

namespace Sys2Proof

open Sys2Proof.Machine

/-! # The decoder against the encoder (spec/30_encoding.md R90 to R97) -/

/-! ## Fields of a word and of its identifier -/

theorem toNat_fieldKK_nibbles (ir : Word) :
    (fieldKK ir).toNat = 16 * (nib2 ir).toNat + (nib3 ir).toNat := by
  rw [← toNat_fieldKK_word4 (nib0 ir) (nib1 ir), word4_nibbles]

/-- `kk` is the low byte of `nnn` (R91). -/
@[simp] theorem extractLsb'_fieldNNN (ir : Word) : (fieldNNN ir).extractLsb' 0 8 = fieldKK ir := by
  apply BitVec.eq_of_toNat_eq
  rw [BitVec.extractLsb'_toNat, Nat.shiftRight_zero, toNat_fieldNNN, toNat_fieldKK]
  omega

/-- The identifier keeps the leading nibble (R93). -/
@[simp] theorem nib0_opcodeId (ir : Word) : nib0 (opcodeId ir) = nib0 ir := by
  unfold opcodeId
  split_ifs <;> simp only [nib0_word4]

/-- In family 8 the identifier keeps the trailing nibble (R93). -/
theorem nib3_opcodeId_family8 {ir : Word} (h : nib0 ir = 0x8#4) : nib3 (opcodeId ir) = nib3 ir := by
  rw [opcodeId_byTrailing h, nib3_word4]

/-- In families 0, E and F the identifier keeps the trailing byte (R93). -/
theorem fieldKK_opcodeId_bySubByte {ir : Word} (h : nib0 ir = 0x0#4 ∨ nib0 ir = 0xE#4 ∨ nib0 ir = 0xF#4) :
    fieldKK (opcodeId ir) = fieldKK ir := by
  apply BitVec.eq_of_toNat_eq
  rw [opcodeId_bySubByte h, toNat_fieldKK_word4, toNat_fieldKK_nibbles]

/-! ## The identifier as a mask (R93) -/

theorem opcodeId_eq_and_F0FF {ir : Word} (h : nib0 ir = 0x0#4 ∨ nib0 ir = 0xE#4 ∨ nib0 ir = 0xF#4) :
    opcodeId ir = ir &&& 0xF0FF#16 := by
  rw [opcodeId_bySubByte h, ← word4_and_F0FF _ (nib1 ir), word4_nibbles]

theorem opcodeId_eq_and_F00F {ir : Word} (h : nib0 ir = 0x8#4) : opcodeId ir = ir &&& 0xF00F#16 := by
  rw [opcodeId_byTrailing h, ← h, ← word4_and_F00F _ (nib1 ir) (nib2 ir), word4_nibbles]

theorem opcodeId_eq_and_F000 {ir : Word} (h : nib0 ir ≠ 0x0#4) (h8 : nib0 ir ≠ 0x8#4)
    (hE : nib0 ir ≠ 0xE#4) (hF : nib0 ir ≠ 0xF#4) : opcodeId ir = ir &&& 0xF000#16 := by
  rw [opcodeId_byFamily h h8 hE hF, ← word4_and_F000 _ (nib1 ir) (nib2 ir) (nib3 ir), word4_nibbles]

/-- The leading nibbles of the families that the trailing byte tells apart, as numbers. -/
theorem toNat_mem_subByte_iff : ∀ a : Nibble, a.toNat ∈ [0, 14, 15] ↔ a = 0x0#4 ∨ a = 0xE#4 ∨ a = 0xF#4 := by
  decide

/-- Settles O4: the three rules of R93, each a mask of whole nibbles. -/
theorem identifierIsTheMask : Obligations.IdentifierIsTheMask := by
  intro ir
  split_ifs with hs h8
  · exact opcodeId_eq_and_F0FF ((toNat_mem_subByte_iff _).mp hs)
  · exact opcodeId_eq_and_F00F (BitVec.eq_of_toNat_eq h8)
  · rw [toNat_mem_subByte_iff, not_or, not_or] at hs
    obtain ⟨h0, hE, hF⟩ := hs
    exact opcodeId_eq_and_F000 h0 (fun h => h8 (congrArg BitVec.toNat h)) hE hF

/-! ## SYS and the words without an entry (R95 row 1, R97) -/

/-- What decodes to nothing (R94, R126). -/
theorem decodeWord_eq_none_iff (ir : Word) :
    decodeWord ir = none ↔ selectRow (opcodeId ir) = none ∧ nib0 ir ≠ 0x0#4 := by
  cases h : selectRow (opcodeId ir) <;> simp [decodeWord, h]

/-- The entry selected stands in the table under the identifier (R94). -/
theorem selectRow_eq_some {id : Word} {row : DispatchRow} (h : selectRow id = some row) :
    row ∈ dispatchTable ∧ row.identifier = id :=
  ⟨List.mem_of_find?_eq_some h, eq_of_beq (List.find?_some (p := fun r : DispatchRow => r.identifier == id) h)⟩

/-- An instruction comes from an entry of the table or is SYS (R94, R126). -/
theorem decodeWord_eq_some_cases {ir : Word} {i : Instr} (h : decodeWord ir = some i) :
    (∃ row ∈ dispatchTable, opcodeId ir = row.identifier ∧ i = row.build ir) ∨
      (selectRow (opcodeId ir) = none ∧ nib0 ir = 0x0#4 ∧ i = .sys (fieldNNN ir)) := by
  cases hr : selectRow (opcodeId ir) with
  | some row =>
    rw [decodeWord_of_row hr, Option.some_inj] at h
    obtain ⟨hrow, hid⟩ := selectRow_eq_some hr
    exact .inl ⟨row, hrow, hid.symm, h.symm⟩
  | none =>
    rw [decodeWord, hr] at h
    obtain ⟨h0, hi⟩ := Option.ite_none_right_eq_some.mp h
    exact .inr ⟨rfl, h0, (Option.some_inj.mp hi).symm⟩

/-- Which identifiers of family 0 have an entry (R97): `selectRow_family0` with its converse. -/
theorem selectRow_isNone_family0 : ∀ c d : Nibble,
    (selectRow (word4 0x0#4 0 c d)).isNone = decide (16 * c.toNat + d.toNat ∉ [0xE0, 0xEE]) := by
  decide

/-- The twelve single-instruction families have an entry each (R95). -/
theorem selectRow_byFamily_ne_none (a : Nibble) (h : a ≠ 0x0#4) (h8 : a ≠ 0x8#4) (hE : a ≠ 0xE#4)
    (hF : a ≠ 0xF#4) : selectRow (word4 a 0 0 0) ≠ none := by
  rw [← Option.isSome_iff_ne_none]
  revert a
  decide

theorem selectRow_opcodeId_eq_none_family0 {ir : Word} (h : nib0 ir = 0x0#4) :
    selectRow (opcodeId ir) = none ↔ (fieldKK ir).toNat ∉ [0xE0, 0xEE] := by
  rw [← Option.isNone_iff_eq_none, opcodeId_bySubByte (.inl h), h, selectRow_isNone_family0,
    toNat_fieldKK_nibbles, decide_eq_true_iff]

theorem selectRow_opcodeId_eq_none_family8 {ir : Word} (h : nib0 ir = 0x8#4) :
    selectRow (opcodeId ir) = none ↔ (nib3 ir).toNat ∈ [8, 9, 10, 11, 12, 13, 15] := by
  rw [← Option.isNone_iff_eq_none, opcodeId_byTrailing h, selectRow_isNone_family8, decide_eq_true_iff]

theorem selectRow_opcodeId_eq_none_familyE {ir : Word} (h : nib0 ir = 0xE#4) :
    selectRow (opcodeId ir) = none ↔ (fieldKK ir).toNat ∉ [0x9E, 0xA1] := by
  rw [← Option.isNone_iff_eq_none, opcodeId_bySubByte (.inr (.inl h)), h, selectRow_isNone_familyE,
    toNat_fieldKK_nibbles, decide_eq_true_iff]

theorem selectRow_opcodeId_eq_none_familyF {ir : Word} (h : nib0 ir = 0xF#4) :
    selectRow (opcodeId ir) = none ↔
      (fieldKK ir).toNat ∉ [0x07, 0x0A, 0x15, 0x18, 0x1E, 0x29, 0x33, 0x55, 0x65] := by
  rw [← Option.isNone_iff_eq_none, opcodeId_bySubByte (.inr (.inr h)), h, selectRow_isNone_familyF,
    toNat_fieldKK_nibbles, decide_eq_true_iff]

theorem selectRow_opcodeId_ne_none_byFamily {ir : Word} (h : nib0 ir ≠ 0x0#4) (h8 : nib0 ir ≠ 0x8#4)
    (hE : nib0 ir ≠ 0xE#4) (hF : nib0 ir ≠ 0xF#4) : selectRow (opcodeId ir) ≠ none := by
  rw [opcodeId_byFamily h h8 hE hF]
  exact selectRow_byFamily_ne_none _ h h8 hE hF

/-- A SYS instruction is well formed when its low byte is neither that of CLS nor that of RET (R126). -/
theorem wf_sys_iff (nnn : Addr12) :
    (Instr.sys nnn).wf = true ↔ (nnn.extractLsb' 0 8).toNat ∉ [0xE0, 0xEE] := by
  simp [Instr.wf, Instr.notCls, Instr.notRet, BitVec.toNat_eq]

theorem decodeWord_sys {ir : Word} (h : nib0 ir = 0x0#4) (hk : (fieldKK ir).toNat ∉ [0xE0, 0xEE]) :
    decodeWord ir = some (.sys (fieldNNN ir)) := by
  rw [decodeWord, (selectRow_opcodeId_eq_none_family0 h).mpr hk]
  exact if_pos h

/-! ## Decoding a canonical word, by format (R92) -/

theorem decodeWord_wordNNN {a : Nibble} {n : Addr12} {id : Word} {mk : Addr12 → Instr}
    (hid : opcodeId (wordNNN a n) = id) (hr : selectRow id = some ⟨id, fun ir => mk (fieldNNN ir)⟩) :
    decodeWord (wordNNN a n) = some (mk n) := by
  rw [decodeWord_of_identifier hid hr, fieldNNN_wordNNN]

theorem decodeWord_wordXKK {a : Nibble} {x : Reg} {k : Byte} {id : Word} {mk : Reg → Byte → Instr}
    (hid : opcodeId (wordXKK a x k) = id)
    (hr : selectRow id = some ⟨id, fun ir => mk (nib1 ir) (fieldKK ir)⟩) :
    decodeWord (wordXKK a x k) = some (mk x k) := by
  rw [decodeWord_of_identifier hid hr, nib1_wordXKK, fieldKK_wordXKK]

theorem decodeWord_wordXS {a : Nibble} {x : Reg} {k : Byte} {id : Word} {mk : Reg → Instr}
    (hid : opcodeId (wordXKK a x k) = id) (hr : selectRow id = some ⟨id, fun ir => mk (nib1 ir)⟩) :
    decodeWord (wordXKK a x k) = some (mk x) :=
  decodeWord_wordXKK (mk := fun x _ => mk x) hid hr

theorem decodeWord_wordXYN {a : Nibble} {x y : Reg} {n : Nibble} {id : Word} {mk : Reg → Reg → Nibble → Instr}
    (hid : opcodeId (wordXYN a x y n) = id)
    (hr : selectRow id = some ⟨id, fun ir => mk (nib1 ir) (nib2 ir) (nib3 ir)⟩) :
    decodeWord (wordXYN a x y n) = some (mk x y n) := by
  rw [decodeWord_of_identifier hid hr, nib1_wordXYN, nib2_wordXYN, nib3_wordXYN]

theorem decodeWord_wordXY {a : Nibble} {x y : Reg} {n : Nibble} {id : Word} {mk : Reg → Reg → Instr}
    (hid : opcodeId (wordXYN a x y n) = id)
    (hr : selectRow id = some ⟨id, fun ir => mk (nib1 ir) (nib2 ir)⟩) :
    decodeWord (wordXYN a x y n) = some (mk x y) :=
  decodeWord_wordXYN (mk := fun x y _ => mk x y) hid hr

/-- Every canonical word decodes to its instruction. The case split is by format: the format gives the identifier
and the fields, the table the entry (R92, R95). -/
theorem decodeWord_encode {i : Instr} (h : i.wf = true) : decodeWord (encode i) = some i := by
  cases i with
  | sys nnn =>
    have hk : (fieldKK (wordNNN 0x0 nnn)).toNat ∉ [0xE0, 0xEE] := by
      rwa [← extractLsb'_fieldNNN, fieldNNN_wordNNN, ← wf_sys_iff]
    rw [encode, decodeWord_sys (nib0_wordNNN 0x0 nnn) hk, fieldNNN_wordNNN]
  | cls | ret => rfl
  | jp nnn | call nnn | ldI nnn | ldV0 nnn =>
    exact decodeWord_wordNNN (opcodeId_wordNNN nnn (by decide)) rfl
  | seByte x k | sneByte x k | ldByte x k | addByte x k | rnd x k =>
    exact decodeWord_wordXKK (opcodeId_wordXKK x k (by decide)) rfl
  | seReg x y | sneReg x y => exact decodeWord_wordXY (opcodeId_word4 x y 0x0 (by decide)) rfl
  | drw x y n => exact decodeWord_wordXYN (opcodeId_word4 x y n (by decide)) rfl
  | ldVxVy x y | or x y | and x y | xor x y | add x y | sub x y | subn x y =>
    exact decodeWord_wordXY (opcodeId_word4_family8 x y _) rfl
  | shr x => exact decodeWord_wordXY (mk := fun x _ => .shr x) (opcodeId_word4_family8 x 0x0 0x6) rfl
  | shl x => exact decodeWord_wordXY (mk := fun x _ => .shl x) (opcodeId_word4_family8 x 0x0 0xE) rfl
  | skp x | sknp x | ldVxDt x | wKey x | ldDtVx x | ldStVx x | addIVx x | ldFVx x | ldBVx x | ldIVx x
  | ldVxI x => exact decodeWord_wordXS (opcodeId_wordXS x _ (by decide)) rfl

theorem decode_of_decodeWord {hi lo : Byte} {i : Instr} (h : decodeWord (wordOfBytes hi lo) = some i)
    (rest : List Byte) : decode (hi :: lo :: rest) = .instr i rest := by
  rw [decode_cons_cons, h]

/-- Settles O1, format by format; the bytes join to the canonical word again. -/
theorem decodeEncodeRoundTrip : Obligations.DecodeEncodeRoundTrip := by
  intro i hi
  have hword := decodeWord_encode hi
  exact ⟨hword, decode_of_decodeWord ((congrArg decodeWord (wordOfBytes_split _)).trans hword)⟩

/-! ## The canonical word of the fields of a word, by format (R92, R96)

A word with the identifier `id` has the leading nibble of `id` and, by its family, the trailing nibble or byte of
`id`; its other fields are operands or ignored. -/

theorem nib0_of_opcodeId {ir id : Word} {a : Nibble} (ha : nib0 id = a) (h : opcodeId ir = id) :
    nib0 ir = a := by
  rw [← nib0_opcodeId, h, ha]

theorem and_FFFF (ir : Word) : ir &&& 0xFFFF#16 = ir := BitVec.and_allOnes

theorem opcodeId_family0_eq {id : Word} (ha : nib0 id = 0x0#4) (ir : Word) (h : opcodeId ir = id) :
    id = ir &&& 0xF0FF#16 := by
  rw [← opcodeId_eq_and_F0FF (.inl (nib0_of_opcodeId ha h)), h]

theorem wordNNN_of_opcodeId {id : Word} {a : Nibble} (ha : nib0 id = a) (ir : Word) (h : opcodeId ir = id) :
    wordNNN a (fieldNNN ir) = ir &&& 0xFFFF#16 := by
  rw [and_FFFF, ← nib0_of_opcodeId ha h, wordNNN_fields]

theorem wordXKK_of_opcodeId {id : Word} {a : Nibble} (ha : nib0 id = a) (ir : Word) (h : opcodeId ir = id) :
    wordXKK a (nib1 ir) (fieldKK ir) = ir &&& 0xFFFF#16 := by
  rw [and_FFFF, ← nib0_of_opcodeId ha h, wordXKK_fields]

theorem wordXYN_of_opcodeId {id : Word} {a : Nibble} (ha : nib0 id = a) (ir : Word) (h : opcodeId ir = id) :
    wordXYN a (nib1 ir) (nib2 ir) (nib3 ir) = ir &&& 0xFFFF#16 := by
  rw [and_FFFF, ← nib0_of_opcodeId ha h, wordXYN, word4_nibbles]

/-- Families 5 and 9 ignore `n3`. -/
theorem wordXY_of_opcodeId {id : Word} {a : Nibble} (ha : nib0 id = a) (ir : Word) (h : opcodeId ir = id) :
    wordXYN a (nib1 ir) (nib2 ir) 0x0 = ir &&& 0xFFF0#16 := by
  rw [← nib0_of_opcodeId ha h, wordXYN, ← word4_and_FFF0 _ _ _ (nib3 ir), word4_nibbles]

theorem wordXY_of_opcodeId_family8 {id : Word} {n : Nibble} (ha : nib0 id = 0x8#4) (hn : nib3 id = n)
    (ir : Word) (h : opcodeId ir = id) : wordXYN 0x8#4 (nib1 ir) (nib2 ir) n = ir &&& 0xFFFF#16 := by
  have h8 := nib0_of_opcodeId ha h
  rw [← hn, ← h, nib3_opcodeId_family8 h8, ← h8, wordXYN, word4_nibbles, and_FFFF]

/-- The shifts ignore `Y`. -/
theorem wordX_of_opcodeId_family8 {id : Word} {n : Nibble} (ha : nib0 id = 0x8#4) (hn : nib3 id = n)
    (ir : Word) (h : opcodeId ir = id) : wordXYN 0x8#4 (nib1 ir) 0x0 n = ir &&& 0xFF0F#16 := by
  have hword := wordXY_of_opcodeId_family8 ha hn ir h
  rw [and_FFFF] at hword
  calc
    wordXYN 0x8#4 (nib1 ir) 0x0 n = wordXYN 0x8#4 (nib1 ir) (nib2 ir) n &&& 0xFF0F#16 :=
      (word4_and_FF0F _ _ _ _).symm
    _ = ir &&& 0xFF0F#16 := by rw [hword]

theorem wordXS_of_opcodeId {id : Word} {a : Nibble} {k : Byte} (hf : a = 0x0#4 ∨ a = 0xE#4 ∨ a = 0xF#4)
    (ha : nib0 id = a) (hk : fieldKK id = k) (ir : Word) (h : opcodeId ir = id) :
    wordXKK a (nib1 ir) k = ir &&& 0xFFFF#16 := by
  have h0 := nib0_of_opcodeId ha h
  rw [← hk, ← h, fieldKK_opcodeId_bySubByte (h0 ▸ hf), ← h0, wordXKK_fields, and_FFFF]

/-! ## The rows of the dispatch table (R95) -/

theorem wf_build : ∀ row ∈ dispatchTable, ∀ ir, (row.build ir).wf = true := by
  simp only [dispatchTable, List.forall_mem_cons, Instr.wf, implies_true, List.not_mem_nil,
    false_implies, and_self]

/-- The rows in the order of R95, each by its format. -/
theorem encode_build : ∀ row ∈ dispatchTable, ∀ ir, opcodeId ir = row.identifier →
    encode (row.build ir) = ir &&& readBits (row.build ir) := by
  simp only [dispatchTable, List.forall_mem_cons]
  refine ⟨?cls, ?ret, ?jp, ?call, ?seByte, ?sneByte, ?seReg, ?ldByte, ?addByte, ?ldVxVy, ?or, ?and, ?xor, ?add,
    ?sub, ?shr, ?subn, ?shl, ?sneReg, ?ldI, ?ldV0, ?rnd, ?drw, ?skp, ?sknp, ?ldVxDt, ?wKey, ?ldDtVx, ?ldStVx,
    ?addIVx, ?ldFVx, ?ldBVx, ?ldIVx, ?ldVxI, List.forall_mem_nil _⟩
  case cls | ret => exact opcodeId_family0_eq rfl
  case jp | call | ldI | ldV0 => exact wordNNN_of_opcodeId rfl
  case seByte | sneByte | ldByte | addByte | rnd => exact wordXKK_of_opcodeId rfl
  case seReg | sneReg => exact wordXY_of_opcodeId rfl
  case drw => exact wordXYN_of_opcodeId rfl
  case ldVxVy | or | and | xor | add | sub | subn => exact wordXY_of_opcodeId_family8 rfl rfl
  case shr | shl => exact wordX_of_opcodeId_family8 rfl rfl
  case skp | sknp | ldVxDt | wKey | ldDtVx | ldStVx | addIVx | ldFVx | ldBVx | ldIVx | ldVxI =>
    exact wordXS_of_opcodeId (by decide) rfl rfl

/-- Settles O2: an entry of the table, each by its format, or SYS, which reads the whole word. -/
theorem decodedWordUpToIgnoredBits : Obligations.DecodedWordUpToIgnoredBits := by
  intro ir i h
  obtain ⟨row, hrow, hid, rfl⟩ | ⟨hnone, h0, rfl⟩ := decodeWord_eq_some_cases h
  · exact ⟨wf_build row hrow ir, encode_build row hrow ir hid⟩
  · constructor
    · rw [wf_sys_iff, extractLsb'_fieldNNN]
      exact (selectRow_opcodeId_eq_none_family0 h0).mp hnone
    · have hword : wordNNN 0x0#4 (fieldNNN ir) = ir := h0 ▸ wordNNN_fields ir
      exact hword.trans (and_FFFF ir).symm

theorem decodeWord_eq_sys_iff (ir : Word) :
    decodeWord ir = some (.sys (fieldNNN ir)) ↔ nib0 ir = 0x0#4 ∧ (fieldKK ir).toNat ∉ [0xE0, 0xEE] := by
  constructor
  · intro h
    obtain ⟨hwf, henc⟩ := decodedWordUpToIgnoredBits ir _ h
    rw [wf_sys_iff, extractLsb'_fieldNNN] at hwf
    have hir : wordNNN 0x0 (fieldNNN ir) = ir := henc.trans (and_FFFF ir)
    exact ⟨hir ▸ nib0_wordNNN 0x0 (fieldNNN ir), hwf⟩
  · exact fun ⟨h0, hk⟩ => decodeWord_sys h0 hk

/-- Settles O3: the entries of the table family by family (R97); the words of family 0 without one are SYS. -/
theorem unknownWordsExactly : Obligations.UnknownWordsExactly := by
  intro ir
  refine ⟨?_, decodeWord_eq_sys_iff ir⟩
  rw [decodeWord_eq_none_iff]
  by_cases h0 : nib0 ir = 0x0#4
  · simp [h0]
  by_cases h8 : nib0 ir = 0x8#4
  · simp [h8, selectRow_opcodeId_eq_none_family8 h8]
  by_cases hE : nib0 ir = 0xE#4
  · simp [hE, selectRow_opcodeId_eq_none_familyE hE]
  by_cases hF : nib0 ir = 0xF#4
  · simp [hF, selectRow_opcodeId_eq_none_familyF hF]
  · simp [h8, hE, hF, selectRow_opcodeId_ne_none_byFamily h0 h8 hE hF]

/-- Settles O5: ten closed words, each evaluated. -/
theorem sampleWordsDecode : Obligations.SampleWordsDecode := by
  unfold Obligations.SampleWordsDecode
  decide

end Sys2Proof

namespace Sys2Proof.Machine

open Sys2Proof

/-! # The pipeline and the dispatch (spec/40_pipeline_and_dispatch.md R120 to R130) -/

/-! ## Which step is taken -/

theorem decodeWord_of_decode {hi lo : Byte} {tail rest : List Byte} {i : Instr}
    (h : decode (hi :: lo :: tail) = .instr i rest) : decodeWord (wordOfBytes hi lo) = some i := by
  rw [decode_cons_cons] at h
  cases hd : decodeWord (wordOfBytes hi lo) with
  | none => rw [hd] at h; cases h
  | some j => rw [hd] at h; cases h; rfl

/-- Settles O6: the bytes at `PC` are those of the word that the step decodes. -/
theorem stepRunsTheDecodedInstruction : Obligations.StepRunsTheDecodedInstruction :=
  fun _ _ _ hf ha hp hd => step_eq_exec hf ha hp (decodeWord_of_decode hd)

theorem step_fetchFault {s : State} (hf : s.fault = none) (ha : s.active = true)
    (hp : ¬ s.pc.toNat + 2 ≤ s.memSize) : step s = .next s.fetchFault := by
  rw [step, State.action_fetchFault hf ha hp]

/-- Settles O7: a fetch fault writes the latch alone. -/
theorem fetchFaultLeavesPc : Obligations.FetchFaultLeavesPc := fun s hf ha hp =>
  ⟨s.fetchFault, step_fetchFault hf ha (Nat.not_le.mpr hp), rfl, rfl, fun _ => rfl, rfl, fun _ => rfl,
    fun _ _ => rfl, ⟨rfl, rfl⟩, ⟨rfl, rfl⟩, rfl, ⟨rfl, rfl, rfl, rfl⟩, rfl⟩

theorem State.active_eq_false {s : State} (hrun : s.run = false) (hhold : s.holding = false) :
    s.active = false := by
  rw [State.active, hrun, hhold]; rfl

/-- Settles O11: a block that is not active is paused. -/
theorem pausedBlockChangesNothing : Obligations.PausedBlockChangesNothing := by
  intro s hf hrun hhold
  rw [step, State.action_paused hf (State.active_eq_false hrun hhold)]

/-! ## Words without a handler (R125, R126) -/

/-- What the cycle of a skipped word leaves: the event `e` is recorded, `PC` has advanced, the timers have
stepped, and nothing else has changed. -/
def LoggedOnly (e : Event) (s t : State) : Prop :=
  t.fault = s.fault ∧ NextPc s t ∧ SameRegs s t ∧ t.i = s.i ∧ SameMem s t ∧ SameFb s t ∧ SameStack s t ∧
    TimersStepped s t ∧ t.events = e :: s.events ∧ CycleTaken s t

theorem loggedOnly_of_emit (s : State) (e : Event) :
    LoggedOnly e s (s.advancePc.emit e).updateTimers.nextInput :=
  ⟨rfl, rfl, fun _ => rfl, rfl, fun _ => rfl, fun _ _ => rfl, ⟨rfl, rfl⟩, timersStepped_of_done rfl rfl, rfl,
    ⟨rfl, rfl, rfl, rfl⟩, rfl⟩

theorem unknownCycle_failFast {s : State} (h : s.params.unknownOpcode = .failFast) (ir : Word) :
    ∃ t, unknownCycle ir s = .next t ∧ RaisedOnly ⟨.unknownOpcode, ir⟩ s t :=
  ⟨_, runCycle_raised (unknownOpcode_failFast (s := s.advancePc) h ir), raisedOnly_of_raise s _⟩

theorem unknownCycle_skip {s : State} (h : s.params.unknownOpcode = .skip) (ir : Word) :
    ∃ t, unknownCycle ir s = .next t ∧ LoggedOnly (.unknownOpcode ir) s t :=
  ⟨_, runCycle_done (unknownOpcode_skip (s := s.advancePc) h ir), loggedOnly_of_emit s _⟩

/-- A word without an entry takes the cycle of an unknown word, as SYS in family 0 and by the step itself in the
other families. -/
theorem step_eq_unknownCycle {s : State} (hf : s.fault = none) (ha : s.active = true)
    (hp : s.pc.toNat + 2 ≤ s.memSize) (hnone : selectRow (opcodeId s.wordAtPc) = none) :
    step s = unknownCycle s.wordAtPc s := by
  by_cases h0 : nib0 s.wordAtPc = 0x0#4
  · have hsys := decodeWord_sys h0 ((selectRow_opcodeId_eq_none_family0 h0).mp hnone)
    have hword : wordNNN 0x0#4 (fieldNNN s.wordAtPc) = s.wordAtPc := h0 ▸ wordNNN_fields s.wordAtPc
    rw [step_eq_exec hf ha hp hsys]
    exact congrArg (unknownCycle · s) hword
  · have hd := (decodeWord_eq_none_iff s.wordAtPc).mpr ⟨hnone, h0⟩
    rw [step, State.action_active hf ha hp, State.fetchDecode_eq, hd]

/-- Settles O8, policy by policy. -/
theorem unknownWordUnderEitherPolicy : Obligations.UnknownWordUnderEitherPolicy := by
  intro s hf ha hp hnone
  rw [step_eq_unknownCycle hf ha hp hnone]
  cases hpolicy : s.params.unknownOpcode with
  | failFast =>
    obtain ⟨t, ht, hraised⟩ := unknownCycle_failFast hpolicy s.wordAtPc
    exact ⟨t, ht, fun _ => hraised, nofun⟩
  | skip =>
    obtain ⟨t, ht, hfault, hframe⟩ := unknownCycle_skip hpolicy s.wordAtPc
    exact ⟨t, ht, nofun, fun _ => ⟨hfault.trans hf, hframe⟩⟩

/-- Settles O9: the word of SYS decodes by the round trip, and its cycle is that of an unknown word. -/
theorem sysIsAnUnknownOpcode : Obligations.SysIsAnUnknownOpcode := by
  refine ⟨fun nnn hk => decodeWord_encode (i := .sys nnn) ((wf_sys_iff nnn).mpr ?_), fun nnn s =>
    ⟨fun h => unknownCycle_skip h (wordNNN 0x0 nnn), fun h => unknownCycle_failFast h (wordNNN 0x0 nnn)⟩⟩
  rwa [BitVec.extractLsb'_toNat, Nat.shiftRight_zero]

/-! ## W_KEY: the hold and the run gate (R127, R128) -/

theorem sameBlock_held (s : State) : SameBlock s s.held := sameBlock_of_eq rfl

theorem cycleHeld_held (s : State) : CycleHeld s s.held := ⟨⟨rfl, rfl, rfl, rfl⟩, rfl⟩

/-- Settles O44. -/
theorem keyWaitHolds : Obligations.KeyWaitHolds :=
  fun x s h => ⟨s.held, exec_wKey_hold x h, sameBlock_held s, rfl, cycleHeld_held s⟩

theorem State.waitingKey_of_wKey {s : State} {x : Reg} (hf : s.fault = none) (ha : s.active = true)
    (hp : s.pc.toNat + 2 ≤ s.memSize) (hd : decodeWord s.wordAtPc = some (.wKey x)) :
    s.waitingKey = s.input.keyReport.isNone := by
  rw [State.waitingKey, State.action_active hf ha hp, State.fetchDecode_eq, hd]
  rfl

/-- Settles O60: a cycle in progress keeps the block active whatever the gate is, and the completed one leaves it
at a boundary. -/
theorem heldCycleOutlivesRunGate : Obligations.HeldCycleOutlivesRunGate := by
  intro s x hf hhold hp hd
  have hstep : step s = exec (.wKey x) s := step_eq_exec hf (State.active_of_holding hhold) hp hd
  refine ⟨fun k hk => ?_, fun hnone => ?_, fun b => ?_, rfl⟩
  · refine ⟨_, hstep.trans (exec_wKey x hk), ?_, sameRegsBut_setV s x _, rfl, onlyRegsAndPc_setV s x _,
      fun hrun => pausedBlockChangesNothing _ hf hrun rfl⟩
    rw [getV_endOfCycle, State.getV_setV_self, toNat_zextKey]
  · exact ⟨s.held, hstep.trans (exec_wKey_hold x hnone), sameBlock_held s, cycleHeld_held s⟩
  · exact State.waitingKey_of_wKey (s := s.setRun b) hf (State.active_of_holding hhold) hp hd

/-! ## When the timers step (R124, R269) -/

@[simp] theorem State.loadRegs_dt (s : State) (a n : Nat) : (s.loadRegs a n).dt = s.dt := by
  rw [State.loadRegs_eq]

@[simp] theorem State.loadRegs_st (s : State) (a n : Nat) : (s.loadRegs a n).st = s.st := by
  rw [State.loadRegs_eq]

@[simp] theorem State.loadRegs_fault (s : State) (a n : Nat) : (s.loadRegs a n).fault = s.fault := by
  rw [State.loadRegs_eq]

theorem waitKey_none {x : Reg} {s : State} (h : s.input.keyReport = none) : waitKey x s = .hold := by
  rw [waitKey, h]

theorem waitKey_some {x : Reg} {s : State} {k : Nibble} (h : s.input.keyReport = some k) :
    waitKey x s = .done (s.setV x (zextKey k)) := by
  rw [waitKey, h]

/-- The ends of the execute stage of `i`, begun in `s`, that leave the timers and the latch to the end of the
cycle. -/
inductive LeavesTimers (i : Instr) (s : State) : Stage → Prop
  | done {u : State} (hdt : u.dt = s.dt) (hst : u.st = s.st) (hfault : u.fault = s.fault) :
      LeavesTimers i s (.done u)
  | raised (f : FaultRecord) : LeavesTimers i s (.raised f)
  | hold (x : Reg) (hi : i = .wKey x) (hkey : s.input.keyReport = none) : LeavesTimers i s .hold

/-- A check in front of a handler adds a raise. -/
theorem LeavesTimers.check {i : Instr} {s : State} {c : Prop} [Decidable c] {k : Stage} {f : FaultRecord}
    (h : LeavesTimers i s k) : LeavesTimers i s (if c then k else .raised f) := by
  split
  · exact h
  · exact .raised f

theorem leavesTimers_skipIf (i : Instr) (s : State) (c : Bool) : LeavesTimers i s (.done (s.skipIf c)) := by
  rw [State.skipIf_eq]
  exact .done rfl rfl rfl

theorem leavesTimers_loadRegs (i : Instr) (s : State) (a n : Nat) :
    LeavesTimers i s (.done (s.loadRegs a n)) :=
  .done (s.loadRegs_dt a n) (s.loadRegs_st a n) (s.loadRegs_fault a n)

theorem leavesTimers_unknownOpcode (i : Instr) (ir : Word) (s : State) :
    LeavesTimers i s (unknownOpcode ir s) := by
  obtain e | e := unknownOpcode_cases ir s <;> rw [e]
  · exact .done rfl rfl rfl
  · exact .raised _

theorem leavesTimers_waitKey (x : Reg) (s : State) : LeavesTimers (.wKey x) s (waitKey x s) := by
  cases h : s.input.keyReport with
  | none => rw [waitKey_none h]; exact .hold x rfl h
  | some k => rw [waitKey_some h]; exact .done rfl rfl rfl

theorem leavesTimers_retHandler (i : Instr) (s : State) : LeavesTimers i s (retHandler s) := by
  unfold retHandler
  split
  · exact .raised _
  · exact .done rfl rfl rfl

theorem leavesTimers_callHandler (i : Instr) (nnn : Addr12) (s : State) :
    LeavesTimers i s (callHandler nnn s) := by
  unfold callHandler
  split
  · exact .raised _
  · exact .done rfl rfl rfl

/-- Only the two timer loads write a timer in the execute stage (R242 to R245). -/
theorem exec_leavesTimers (i : Instr) (s : State) (hdt : ∀ x, i ≠ .ldDtVx x) (hst : ∀ x, i ≠ .ldStVx x) :
    ∃ k, exec i s = .next (s.endCycle k) ∧ LeavesTimers i s.advancePc k := by
  cases i with
  | ldDtVx x => exact absurd rfl (hdt x)
  | ldStVx x => exact absurd rfl (hst x)
  | cls | jp _ | ldV0 _ | ldByte _ _ | addByte _ _ | ldVxVy _ _ | or _ _ | and _ _ | xor _ _ | add _ _
  | sub _ _ | shr _ | subn _ _ | shl _ | rnd _ _ | ldI _ | addIVx _ | ldVxDt _ =>
    exact ⟨_, rfl, .done rfl rfl rfl⟩
  | seByte _ _ | sneByte _ _ | seReg _ _ | sneReg _ _ => exact ⟨_, rfl, leavesTimers_skipIf _ _ _⟩
  | skp _ | sknp _ => exact ⟨_, rfl, .check (leavesTimers_skipIf _ _ _)⟩
  | ldFVx _ | ldBVx _ | ldIVx _ => exact ⟨_, rfl, .check (.done rfl rfl rfl)⟩
  | ldVxI _ => exact ⟨_, rfl, .check (leavesTimers_loadRegs _ _ _ _)⟩
  | drw _ _ _ => exact ⟨_, rfl, .check (.check (.done rfl rfl rfl))⟩
  | sys _ => exact ⟨_, rfl, leavesTimers_unknownOpcode _ _ _⟩
  | ret => exact ⟨_, rfl, leavesTimers_retHandler _ _⟩
  | call nnn => exact ⟨_, rfl, leavesTimers_callHandler _ nnn _⟩
  | wKey x => exact ⟨_, rfl, leavesTimers_waitKey x _⟩

/-- Settles O53, by the end of the execute stage: only a handler that ran to its end is followed by the timers. -/
theorem timersStepOncePerCompletedCycle : Obligations.TimersStepOncePerCompletedCycle := by
  intro i s t hf h hdt hst
  by_cases hhold : ∃ x, i = .wKey x ∧ s.input.keyReport = none
  · rw [if_pos (.inr hhold)]
    obtain ⟨x, rfl, hnone⟩ := hhold
    cases (exec_wKey_hold x hnone).symm.trans h
    exact ⟨rfl, rfl⟩
  · obtain ⟨k, hk, hend⟩ := exec_leavesTimers i s hdt hst
    cases hk.symm.trans h
    cases hend with
    | @done u hdt hst hfault =>
      have hnone : u.fault = none := hfault.trans hf
      rw [State.endCycle_done, if_neg (not_or.mpr ⟨by simp [hnone], hhold⟩)]
      exact timersStepped_of_done hdt hst
    | raised f =>
      rw [if_pos (.inl rfl)]
      exact ⟨rfl, rfl⟩
    | hold x hi hkey => exact absurd ⟨x, hi, hkey⟩ hhold

/-! ## Where the unknown-opcode policy reaches (R125, R126) -/

/-- The same block built with another unknown-opcode policy. -/
def State.withPolicy (p : Config.UnknownPolicy) (s : State) : State :=
  { s with params := { s.params with unknownOpcode := p } }

/-- The same end of an execute stage, in the block built with another policy. -/
def Stage.withPolicy (p : Config.UnknownPolicy) : Stage → Stage
  | .done s => .done (s.withPolicy p)
  | .raised f => .raised f
  | .hold => .hold

theorem State.endCycle_withPolicy (p : Config.UnknownPolicy) (s : State) (k : Stage) :
    (s.withPolicy p).endCycle (k.withPolicy p) = (s.endCycle k).withPolicy p := by
  cases k <;> rfl

theorem sameBlock_withPolicy (p : Config.UnknownPolicy) (s : State) : SameBlock s (s.withPolicy p) :=
  ⟨rfl, rfl, rfl, rfl, rfl, rfl, rfl, rfl, rfl, rfl⟩

theorem State.skipIf_withPolicy (s : State) (p : Config.UnknownPolicy) (c : Bool) :
    (s.withPolicy p).skipIf c = (s.skipIf c).withPolicy p := by
  rw [State.skipIf_eq, State.skipIf_eq]; rfl

theorem State.regList_withPolicy (s : State) (p : Config.UnknownPolicy) (n : Nat) :
    (s.withPolicy p).regList n = s.regList n := by
  induction n with
  | zero => rfl
  | succ n ih => rw [State.regList, ih]; rfl

theorem State.loadRegs_withPolicy (s : State) (p : Config.UnknownPolicy) (a n : Nat) :
    (s.withPolicy p).loadRegs a n = (s.loadRegs a n).withPolicy p := by
  induction n with
  | zero => rfl
  | succ n ih => rw [State.loadRegs, ih]; rfl

/-- A check on what no policy changes, in front of the same end, is the same check. -/
theorem Stage.check_withPolicy {p : Config.UnknownPolicy} {c : Prop} [Decidable c] {k k' l l' : Stage}
    (hk : k' = k.withPolicy p) (hl : l' = l.withPolicy p) :
    (if c then k' else l') = (if c then k else l).withPolicy p := by
  rw [hk, hl, apply_ite (Stage.withPolicy p)]

theorem waitKey_withPolicy (p : Config.UnknownPolicy) (x : Reg) (s : State) :
    waitKey x (s.withPolicy p) = (waitKey x s).withPolicy p := by
  cases h : s.input.keyReport with
  | none => rw [waitKey_none h, waitKey_none (s := s.withPolicy p) h]; rfl
  | some k => rw [waitKey_some h, waitKey_some (s := s.withPolicy p) h]; rfl

/-- No handler but that of SYS sees the policy: under another one the execute stage ends the same way. -/
theorem exec_withPolicy (p : Config.UnknownPolicy) (i : Instr) (s : State) (hi : ∀ nnn, i ≠ .sys nnn) :
    ∃ k k', exec i s = .next (s.endCycle k) ∧ exec i (s.withPolicy p) = .next ((s.withPolicy p).endCycle k') ∧
      k' = k.withPolicy p := by
  cases i with
  | sys nnn => exact absurd rfl (hi nnn)
  | cls | jp _ | ldV0 _ | ldByte _ _ | addByte _ _ | ldVxVy _ _ | or _ _ | and _ _ | xor _ _ | add _ _
  | sub _ _ | shr _ | subn _ _ | shl _ | rnd _ _ | ldI _ | addIVx _ | ldVxDt _ | ldDtVx _ | ldStVx _ =>
    exact ⟨_, _, rfl, rfl, rfl⟩
  | seByte _ _ | sneByte _ _ | seReg _ _ | sneReg _ _ =>
    exact ⟨_, _, rfl, rfl, congrArg Stage.done (s.advancePc.skipIf_withPolicy p _)⟩
  | skp _ | sknp _ =>
    exact ⟨_, _, rfl, rfl, Stage.check_withPolicy (congrArg Stage.done (s.advancePc.skipIf_withPolicy p _)) rfl⟩
  | ret | call _ | ldFVx _ | ldBVx _ => exact ⟨_, _, rfl, rfl, Stage.check_withPolicy rfl rfl⟩
  | ldIVx x =>
    have hregs : (s.advancePc.withPolicy p).regRange x = s.advancePc.regRange x :=
      s.advancePc.regList_withPolicy p (rangeLength x)
    refine ⟨_, _, rfl, rfl, Stage.check_withPolicy (congrArg Stage.done ?_) rfl⟩
    exact congrArg ((s.advancePc.withPolicy p).writeBytes s.i.toNat) hregs
  | ldVxI x =>
    exact ⟨_, _, rfl, rfl, Stage.check_withPolicy
      (congrArg Stage.done (s.advancePc.loadRegs_withPolicy p s.i.toNat (rangeLength x))) rfl⟩
  | drw _ _ _ => exact ⟨_, _, rfl, rfl, Stage.check_withPolicy (Stage.check_withPolicy rfl rfl) rfl⟩
  | wKey x => exact ⟨_, _, rfl, rfl, waitKey_withPolicy p x s.advancePc⟩

/-- Settles O55: the same end of the execute stage ends both cycles in the same block. -/
theorem policyReachesOnlySys : Obligations.PolicyReachesOnlySys := by
  intro i s t w p hi ht hw
  obtain ⟨k, k', hk, hk', rfl⟩ := exec_withPolicy p i s hi
  rw [State.endCycle_withPolicy] at hk'
  cases hk.symm.trans ht
  cases hk'.symm.trans hw
  exact sameBlock_withPolicy p _

end Sys2Proof.Machine

namespace Sys2Proof.Machine

open Sys2Proof

/-! # Control transfer and skips (spec/41_flow.md R150 to R158) -/

/-! ## Jumps (R151, R157) -/

/-- A 12-bit address and a byte add up below 2^16, so the target of LD_V0 is not reduced (R157). -/
theorem toNat_zextAddr_add_zextByte (nnn : Addr12) (b : Byte) :
    (zextAddr nnn + zextByte b).toNat = nnn.toNat + b.toNat := by
  have hn := nnn.isLt
  have hb := b.isLt
  rw [BitVec.toNat_add, toNat_zextAddr, toNat_zextByte, Nat.mod_eq_of_lt (by omega)]

/-- No target is checked by the jump: a running block faults at the next fetch (R63, R158). -/
theorem exists_step_fetchFault {t : State} {target : Nat} (hpc : t.pc.toNat = target) (hf : t.fault = none)
    (hrun : t.run = true) (hp : target + 2 > t.memSize) :
    ∃ u, step t = .next u ∧ u.fault = some ⟨.outOfBounds .fetch, t.pc⟩ := by
  subst hpc
  exact ⟨t.fetchFault, step_fetchFault hf (State.active_of_run hrun) (Nat.not_le.mpr hp), rfl⟩

/-- Settles O23: each jump is one write of `PC`, whose value as a number is the target. -/
theorem jumpsSetPc : Obligations.JumpsSetPc := by
  refine ⟨fun nnn => ⟨decodeWord_encode (i := .jp nnn) rfl, decodeWord_encode (i := .ldV0 nnn) rfl⟩,
    fun nnn s => ⟨?jp, ?ldV0⟩⟩
  case jp =>
    have hpc := toNat_zextAddr nnn
    exact ⟨_, exec_jp nnn s, hpc, fun h => BitVec.eq_of_toNat_eq (hpc.trans h.symm), fun _ => rfl,
      onlyRegsAndPc_setPc s _, fun hf hrun hp => exists_step_fetchFault hpc hf hrun hp⟩
  case ldV0 =>
    have hpc := toNat_zextAddr_add_zextByte nnn (s.getV 0)
    exact ⟨_, exec_ldV0 nnn s, hpc, fun _ => rfl, onlyRegsAndPc_setPc s _,
      fun hf hrun hp => exists_step_fetchFault hpc hf hrun hp⟩

/-! ## The call stack (R150, R152) -/

theorem State.stackEntry_pushed_self {s : State} (h : s.sp < s.stack.length) (w : Word) :
    (s.pushed w).stackEntry s.sp = w := by
  rw [State.stackEntry_pushed, if_pos ⟨rfl, h⟩]

theorem State.stackEntry_pushed_ne (s : State) (w : Word) {k : Nat} (h : k ≠ s.sp) :
    (s.pushed w).stackEntry k = s.stackEntry k := by
  rw [State.stackEntry_pushed, if_neg fun e => h e.1]

/-- The storage alone decides its entries. -/
theorem State.stackEntry_eq_of_stack {s t : State} (h : t.stack = s.stack) (k : Nat) :
    t.stackEntry k = s.stackEntry k := by
  rw [State.stackEntry, h, State.stackEntry]

/-- Settles O24: the push is on the advanced `PC`, into a place that the stack has. -/
theorem callPushesReturnAddress : Obligations.CallPushesReturnAddress := by
  refine ⟨fun nnn => decodeWord_encode (i := .call nnn) rfl, fun nnn s =>
    ⟨fun hroom hlen => ?_, fun hfull => ?_⟩⟩
  · have hplace : s.sp < s.stack.length := hlen ▸ hroom
    exact ⟨_, exec_call nnn (Nat.not_le.mpr hroom), toNat_zextAddr nnn, rfl,
      State.stackEntry_pushed_self (s := s.advancePc) hplace _,
      fun _ hk => s.advancePc.stackEntry_pushed_ne _ hk, List.length_set .., fun _ => rfl, rfl, fun _ => rfl,
      fun _ _ => rfl, rfl, rfl, timersStepped_of_done rfl rfl, ⟨rfl, rfl, rfl, rfl⟩, rfl⟩
  · exact ⟨_, exec_call_full nnn hfull.ge, raisedOnly_of_raise s _⟩

/-- Settles O25: the identifier of `0nEE` is that of RET for every `n`; the pop only counts down. -/
theorem returnPopsNewestAddress : Obligations.ReturnPopsNewestAddress := by
  refine ⟨fun n => decodeWord_of_identifier (opcodeId_word4_family0 n 0xE 0xE) (build := fun _ => .ret) rfl,
    fun s => ⟨fun hsp => ?_, fun hsp => ?_⟩⟩
  · exact ⟨_, exec_ret hsp, rfl, rfl, rfl, fun _ => rfl, rfl, fun _ => rfl, fun _ _ => rfl, rfl, rfl,
      timersStepped_of_done rfl rfl, ⟨rfl, rfl, rfl, rfl⟩, rfl⟩
  · exact ⟨_, exec_ret_empty hsp, raisedOnly_of_raise s _⟩

/-- Settles O26: what RET pops is the entry that CALL pushed. -/
theorem callThenReturn : Obligations.CallThenReturn := by
  intro nnn s hroom hlen
  obtain ⟨t, hcall, -, htsp, htop, -⟩ := (callPushesReturnAddress.2 nnn s).1 hroom hlen
  refine ⟨t, hcall, fun u hstack hsp => ?_⟩
  have husp : u.sp = s.sp + 1 := hsp.trans htsp
  obtain ⟨w, hret, hpc, hwsp, -⟩ := (returnPopsNewestAddress.2 u).1 (by omega)
  rw [husp, Nat.add_sub_cancel] at hpc hwsp
  exact ⟨w, hret, by rw [hpc, State.stackEntry_eq_of_stack hstack, htop], hwsp⟩

/-! ## Skips (R153 to R156, R158) -/

/-- How far `PC` moves in a cycle that skips on `c` (R158). -/
def skipAdvance (c : Bool) : Nat := if c then 4 else 2

theorem toNat_pc_skipIf (s : State) (c : Bool) :
    (s.advancePc.skipIf c).pc.toNat = (s.pc.toNat + skipAdvance c) % 65536 := by
  rw [State.skipIf_pc, State.advancePc_pc]
  cases c <;> simp [skipAdvance, BitVec.toNat_add, Nat.add_assoc]

theorem skipAdvance_beq (a b : Byte) : skipAdvance (a == b) = if a.toNat = b.toNat then 4 else 2 := by
  simp [skipAdvance, BitVec.toNat_inj]

theorem skipAdvance_bne (a b : Byte) : skipAdvance (a != b) = if a.toNat = b.toNat then 2 else 4 := by
  simp [skipAdvance, BitVec.toNat_inj]

/-- The cycle of a conditional skip moves `PC` by its advance and changes nothing else but the timers. -/
theorem exists_next_of_skipIf {i : Instr} {s : State} {c : Bool} {n : Nat}
    (h : exec i s = .next (s.advancePc.skipIf c).updateTimers.nextInput) (hn : skipAdvance c = n) :
    ∃ t, exec i s = .next t ∧ t.pc.toNat = (s.pc.toNat + n) % 65536 ∧ SameRegs s t ∧ OnlyRegsAndPc s t :=
  ⟨_, h, hn ▸ toNat_pc_skipIf s c, sameRegs_skipIf s c, onlyRegsAndPc_skipIf s c⟩

/-- Settles O27: the two cycles skip on the comparison and on its negation. -/
theorem skipsOnByte : Obligations.SkipsOnByte :=
  ⟨fun x kk => ⟨decodeWord_encode (i := .seByte x kk) rfl, decodeWord_encode (i := .sneByte x kk) rfl⟩,
    fun x kk s => ⟨exists_next_of_skipIf (exec_seByte x kk s) (skipAdvance_beq _ _),
      exists_next_of_skipIf (exec_sneByte x kk s) (skipAdvance_bne _ _)⟩⟩

/-- A word of family 5 or 9 decodes by its register nibbles, whatever the ignored one is (R96). -/
theorem decodeWord_word4_skip (x y n : Nibble) :
    decodeWord (word4 0x5 x y n) = some (.seReg x y) ∧ decodeWord (word4 0x9 x y n) = some (.sneReg x y) :=
  ⟨decodeWord_wordXY (opcodeId_word4 x y n (by decide)) rfl,
    decodeWord_wordXY (opcodeId_word4 x y n (by decide)) rfl⟩

/-- Settles O28: the same two cycles, with a register for the immediate. -/
theorem skipsOnRegister : Obligations.SkipsOnRegister :=
  ⟨decodeWord_word4_skip, fun x y s => ⟨exists_next_of_skipIf (exec_seReg x y s) (skipAdvance_beq _ _),
    exists_next_of_skipIf (exec_sneReg x y s) (skipAdvance_bne _ _)⟩⟩

end Sys2Proof.Machine

namespace Sys2Proof.Machine

open Sys2Proof

/-! # Register loads, arithmetic, logic, shifts and random (spec/42_alu.md R170 to R183) -/

/-! ## Results and flags as numbers (R176 to R180, R182) -/

theorem toNat_flagByte_addCarry (a b : Byte) :
    (flagByte (addCarry a b)).toNat = if a.toNat + b.toNat > 255 then 1 else 0 := by
  simp only [toNat_flagByte, addCarry, decide_eq_true_eq]

/-- The borrow of 256 that `subResult` adds keeps the naturals from truncating, and vanishes modulo 256. -/
theorem intCast_toNat_subResult (a b : Byte) : ((subResult a b).toNat : Int) = ((a.toNat : Int) - b.toNat) % 256 := by
  have hb := b.isLt
  rw [toNat_subResult]
  omega

theorem toNat_flagByte_subNoBorrow (a b : Byte) :
    (flagByte (subNoBorrow a b)).toNat = if a.toNat ≥ b.toNat then 1 else 0 := by
  simp only [toNat_flagByte, subNoBorrow, decide_eq_true_eq]

theorem toNat_shrResult (a : Byte) : (shrResult a).toNat = a.toNat / 2 := by
  rw [shrResult, BitVec.toNat_ushiftRight, Nat.shiftRight_succ, Nat.shiftRight_zero]

theorem toNat_shlResult (a : Byte) : (shlResult a).toNat = 2 * a.toNat % 256 := by
  rw [shlResult, BitVec.toNat_shiftLeft, Nat.shiftLeft_eq, Nat.pow_one, Nat.mul_comm]

/-- The byte of a flag that is one bit of `a` has that bit's value. -/
theorem toNat_flagByte_getLsbD (a : Byte) (k : Nat) :
    (flagByte (a.getLsbD k)).toNat = a.toNat / 2 ^ k % 2 := by
  rw [toNat_flagByte, BitVec.getLsbD, Nat.testBit_eq_decide_div_mod_eq]
  simp only [decide_eq_true_eq]
  split <;> omega

theorem toNat_flagByte_shrFlag (a : Byte) : (flagByte (shrFlag a)).toNat = a.toNat % 2 := by
  rw [shrFlag, toNat_flagByte_getLsbD, Nat.pow_zero, Nat.div_one]

/-- Bit 7 is the highest of a byte, so nothing is left above it. -/
theorem toNat_flagByte_shlFlag (a : Byte) : (flagByte (shlFlag a)).toNat = a.toNat / 128 := by
  have ha := a.isLt
  rw [shlFlag, toNat_flagByte_getLsbD]
  omega

/-! ## Cycles that write one register -/

/-- The cycle of a plain write changes `V[x]`, `PC` and the timers alone; `P` is what a statement says of the byte
written. -/
theorem exists_next_of_setV {i : Instr} {s : State} {x : Reg} {v : Byte} (P : Byte → Prop)
    (h : exec i s = .next (s.advancePc.setV x v).updateTimers.nextInput) (hv : P v) :
    ∃ t, exec i s = .next t ∧ P (t.getV x) ∧ SameRegsBut (· = x) s t ∧ NextPc s t ∧ OnlyRegsAndPc s t := by
  have hx : (s.advancePc.setV x v).updateTimers.nextInput.getV x = v := State.getV_setV_self _ _ _
  exact ⟨_, h, hx.symm ▸ hv, sameRegsBut_setV s x v, rfl, onlyRegsAndPc_setV s x v⟩

/-- Settles O14: the byte written is the immediate. -/
theorem loadByte : Obligations.LoadByte :=
  ⟨fun x kk => decodeWord_encode (i := .ldByte x kk) rfl,
    fun x kk s => exists_next_of_setV (· = kk) (exec_ldByte x kk s) rfl⟩

/-- Settles O15: the byte written is the one in `V[Y]`. -/
theorem copyRegister : Obligations.CopyRegister :=
  ⟨fun x y => decodeWord_encode (i := .ldVxVy x y) rfl,
    fun x y s => exists_next_of_setV (· = s.getV y) (exec_ldVxVy x y s) rfl⟩

/-- Settles O16: the byte written is the sum modulo 256, and no flag is written. -/
theorem addByteWrapsWithoutFlag : Obligations.AddByteWrapsWithoutFlag :=
  ⟨fun x kk => decodeWord_encode (i := .addByte x kk) rfl,
    fun x kk s => exists_next_of_setV (·.toNat = _) (exec_addByte x kk s) (toNat_addResult _ _)⟩

/-- Settles O17: each bit of the byte written is the operation on the bits of the operands. -/
theorem logicIsBitwise : Obligations.LogicIsBitwise := by
  refine ⟨fun x y => ⟨decodeWord_encode (i := .or x y) rfl, decodeWord_encode (i := .and x y) rfl,
    decodeWord_encode (i := .xor x y) rfl⟩, fun x y s => ⟨?or, ?and, ?xor⟩⟩
  case or =>
    exact exists_next_of_setV (fun v => ∀ b, v.getLsbD b = ((s.getV x).getLsbD b || (s.getV y).getLsbD b))
      (exec_or x y s) fun _ => BitVec.getLsbD_or
  case and =>
    exact exists_next_of_setV (fun v => ∀ b, v.getLsbD b = ((s.getV x).getLsbD b && (s.getV y).getLsbD b))
      (exec_and x y s) fun _ => BitVec.getLsbD_and
  case xor =>
    exact exists_next_of_setV (fun v => ∀ b, v.getLsbD b = ((s.getV x).getLsbD b != (s.getV y).getLsbD b))
      (exec_xor x y s) fun _ => BitVec.getLsbD_xor

/-- Settles O22: the byte drawn is the one of this cycle's port, and the mask works bit by bit. -/
theorem randomByteIsMasked : Obligations.RandomByteIsMasked :=
  ⟨fun x kk => decodeWord_encode (i := .rnd x kk) rfl,
    fun x kk s => exists_next_of_setV (fun v => ∀ b, v.getLsbD b = (s.input.rnd.getLsbD b && kk.getLsbD b))
      (exec_rnd x kk s) fun _ => BitVec.getLsbD_and⟩

/-! ## Cycles that write a register and then the flag (R183) -/

/-- The flag is written last, so `V[x]` keeps its result where it is not VF itself. -/
theorem result_setResultFlag (s : State) {x : Reg} (hx : x ≠ flagReg) (v : Byte) (c : Bool) :
    (s.setResultFlag x v c).updateTimers.nextInput.getV x = v := by
  rw [getV_endOfCycle, State.getV_setResultFlag, if_neg hx, if_pos rfl]

/-- The cycle of a write with a flag leaves the result in `V[x]` unless `x` is VF, and the flag in VF for every
`x` (D11); `P` is what a statement says of the result. -/
theorem exists_next_of_setResultFlag {i : Instr} {s : State} {x : Reg} {v : Byte} {c : Bool} {n : Nat}
    (P : Byte → Prop)
    (h : exec i s = .next (s.advancePc.setResultFlag x v c).updateTimers.nextInput)
    (hv : P v) (hc : (flagByte c).toNat = n) :
    ∃ t, exec i s = .next t ∧ (x ≠ 15 → P (t.getV x)) ∧ (t.getV 15).toNat = n ∧
      SameRegsBut (fun r => r = x ∨ r = 15) s t ∧ NextPc s t ∧ OnlyRegsAndPc s t :=
  ⟨_, h, fun hx => (result_setResultFlag s.advancePc hx v c).symm ▸ hv,
    (congrArg BitVec.toNat (flag_setResultFlag s.advancePc x v c)).trans hc,
    sameRegsBut_setResultFlag s x v c, rfl, onlyRegsAndPc_setResultFlag s x v c⟩

/-- Settles O18: the result is the sum modulo 256, the flag its carry. -/
theorem addSetsCarry : Obligations.AddSetsCarry :=
  ⟨fun x y => decodeWord_encode (i := .add x y) rfl,
    fun x y s => exists_next_of_setResultFlag (·.toNat = _) (exec_add x y s) (toNat_addResult _ _)
      (toNat_flagByte_addCarry _ _)⟩

/-- Settles O19: the result is the difference modulo 256, the flag its not-borrow. -/
theorem subSetsNotBorrow : Obligations.SubSetsNotBorrow :=
  ⟨fun x y => decodeWord_encode (i := .sub x y) rfl,
    fun x y s => exists_next_of_setResultFlag (fun v => (v.toNat : Int) = _) (exec_sub x y s)
      (intCast_toNat_subResult _ _) (toNat_flagByte_subNoBorrow _ _)⟩

/-- Settles O20: the same result and flag, with the operands the other way round. -/
theorem subnSetsNotBorrow : Obligations.SubnSetsNotBorrow :=
  ⟨fun x y => decodeWord_encode (i := .subn x y) rfl,
    fun x y s => exists_next_of_setResultFlag (fun v => (v.toNat : Int) = _) (exec_subn x y s)
      (intCast_toNat_subResult _ _) (toNat_flagByte_subNoBorrow _ _)⟩

/-- Words 8xy6 and 8xyE decode by `x`, whatever the ignored nibble is (R96). -/
theorem decodeWord_word4_shift (x y : Reg) :
    decodeWord (word4 0x8 x y 0x6) = some (.shr x) ∧ decodeWord (word4 0x8 x y 0xE) = some (.shl x) :=
  ⟨decodeWord_wordXY (mk := fun x _ => .shr x) (opcodeId_word4_family8 x y 0x6) rfl,
    decodeWord_wordXY (mk := fun x _ => .shl x) (opcodeId_word4_family8 x y 0xE) rfl⟩

/-- Settles O21: each result is half or twice the operand, the flag its lowest or highest bit. -/
theorem shiftsByOneBit : Obligations.ShiftsByOneBit :=
  ⟨decodeWord_word4_shift, fun x s =>
    ⟨exists_next_of_setResultFlag (·.toNat = _) (exec_shr x s) (toNat_shrResult _) (toNat_flagByte_shrFlag _),
      exists_next_of_setResultFlag (·.toNat = _) (exec_shl x s) (toNat_shlResult _)
        (toNat_flagByte_shlFlag _)⟩⟩

end Sys2Proof.Machine

namespace Sys2Proof.Machine

open Sys2Proof

/-! # Index register and memory (spec/43_index_memory.md R200 to R205) -/

/-! ## Cycles that write `I` (R200 to R202) -/

/-- The cycle of a write to `I` changes `I`, `PC` and the timers alone. -/
theorem exists_next_of_setI {i : Instr} {s : State} {w : Word} {n : Nat}
    (h : exec i s = .next (s.advancePc.setI w).updateTimers.nextInput) (hw : w.toNat = n) :
    ∃ t, exec i s = .next t ∧ t.i.toNat = n ∧ SameRegs s t ∧ NextPc s t ∧ SameMem s t ∧ SameFb s t ∧
      SameStack s t ∧ t.fault = s.fault ∧ t.events = s.events ∧ TimersStepped s t ∧ CycleTaken s t :=
  ⟨_, h, hw, fun _ => rfl, rfl, fun _ => rfl, fun _ _ => rfl, ⟨rfl, rfl⟩, rfl, rfl,
    timersStepped_of_done rfl rfl, ⟨rfl, rfl, rfl, rfl⟩, rfl⟩

theorem toNat_add_zextByte (w : Word) (b : Byte) :
    (w + zextByte b).toNat = (w.toNat + b.toNat) % 65536 := by
  rw [BitVec.toNat_add, toNat_zextByte]

/-- The glyph of any byte is addressed below 2^16, so the product is not reduced (R67). -/
theorem toNat_glyphAddress (d : Byte) : (glyphAddress d).toNat = 5 * d.toNat := by
  have hd := d.isLt
  rw [glyphAddress, fontStride, BitVec.toNat_ofNat, Nat.mod_eq_of_lt (by omega)]

/-- Settles O29: the word written is the address, whose value 16 bits hold. -/
theorem loadIndex : Obligations.LoadIndex :=
  ⟨fun nnn => decodeWord_encode (i := .ldI nnn) rfl,
    fun nnn s => exists_next_of_setI (exec_ldI nnn s) (toNat_zextAddr nnn)⟩

/-- Settles O30: the word written is the sum modulo 2^16, and no register is written. -/
theorem addToIndexWraps : Obligations.AddToIndexWraps :=
  ⟨fun x => decodeWord_encode (i := .addIVx x) rfl,
    fun x s => exists_next_of_setI (exec_addIVx x s) (toNat_add_zextByte _ _)⟩

/-- Settles O31, by the digit check: a digit that passes addresses its glyph, another is recorded. -/
theorem fontAddressOfDigit : Obligations.FontAddressOfDigit :=
  ⟨fun x => decodeWord_encode (i := .ldFVx x) rfl, fun _ s =>
    ⟨fun hdigit => exists_next_of_setI (exec_ldFVx hdigit) (toNat_glyphAddress _),
      fun habove => ⟨_, exec_ldFVx_above (Nat.not_le.mpr habove), raisedOnly_of_raise s _⟩⟩⟩

/-! ## Cycles that store at `I` (R203, R204) -/

/-- The byte at place `k` of a store that fits reads back. -/
theorem State.readMem_writeBytes_add {s : State} (hs : s.memWf = true) {a k : Nat} {bytes : List Byte}
    (hfit : a + bytes.length ≤ s.memSize) (hk : k < bytes.length) :
    (s.writeBytes a bytes).readMem (a + k) = bytes.getD k 0 := by
  rw [State.readMem_writeBytes hs a _ _ hfit, if_pos (by omega), Nat.add_sub_cancel_left]

theorem State.readMem_writeBytes_outside {s : State} (hs : s.memWf = true) {a b : Nat} {bytes : List Byte}
    (hfit : a + bytes.length ≤ s.memSize) (hb : ¬ (a ≤ b ∧ b < a + bytes.length)) :
    (s.writeBytes a bytes).readMem b = s.readMem b := by
  rw [State.readMem_writeBytes hs a _ _ hfit, if_neg hb]

/-- The cycle of a store of `n` bytes that fits changes those bytes, `PC` and the timers alone; `P` is what a
statement says of the bytes as memory then reads. -/
theorem exists_next_of_writeBytes {i : Instr} {s : State} {bytes : List Byte} {n : Nat} (P : (Nat → Byte) → Prop)
    (h : exec i s = .next (s.advancePc.writeBytes s.i.toNat bytes).updateTimers.nextInput)
    (hs : s.memWf = true) (hn : bytes.length = n) (hfit : s.i.toNat + n ≤ s.memSize)
    (hP : P (s.writeBytes s.i.toNat bytes).readMem) :
    ∃ t, exec i s = .next t ∧ P t.readMem ∧
      (∀ a, ¬ (s.i.toNat ≤ a ∧ a < s.i.toNat + n) → t.readMem a = s.readMem a) ∧
      SameRegs s t ∧ t.i = s.i ∧ NextPc s t ∧ SameFb s t ∧ SameStack s t ∧ t.fault = s.fault ∧
      t.events = s.events ∧ TimersStepped s t ∧ CycleTaken s t := by
  subst hn
  exact ⟨_, h, hP, fun _ ha => State.readMem_writeBytes_outside hs hfit ha, fun _ => rfl, rfl, rfl,
    fun _ _ => rfl, ⟨rfl, rfl⟩, rfl, rfl, timersStepped_of_done rfl rfl, ⟨rfl, rfl, rfl, rfl⟩, rfl⟩

/-- `read` shows the decimal digits of `b` at `a`, `a + 1` and `a + 2`, hundreds first (R203). -/
def ReadsDecimal (b : Byte) (a : Nat) (read : Nat → Byte) : Prop :=
  ∃ h d u : Nat, b.toNat = 100 * h + 10 * d + u ∧ h ≤ 2 ∧ d ≤ 9 ∧ u ≤ 9 ∧
    (read a).toNat = h ∧ (read (a + 1)).toNat = d ∧ (read (a + 2)).toNat = u

/-- A stored digit reads back as its value: none is above 255. -/
theorem State.readsDecimal_writeBytes {s : State} (hs : s.memWf = true) {a : Nat} (hfit : a + 3 ≤ s.memSize)
    (b : Byte) : ReadsDecimal b a (s.writeBytes a (decimalDigits b)).readMem := by
  have hb := b.isLt
  have hread {k d : Nat} (hk : k < 3) (hd : d < 256) (hdigit : (decimalDigits b).getD k 0 = BitVec.ofNat 8 d) :
      ((s.writeBytes a (decimalDigits b)).readMem (a + k)).toNat = d := by
    rw [State.readMem_writeBytes_add hs hfit hk, hdigit, BitVec.toNat_ofNat, Nat.mod_eq_of_lt hd]
  exact ⟨b.toNat / 100, b.toNat / 10 % 10, b.toNat % 10, by omega, by omega, by omega, by omega,
    hread (k := 0) (by omega) (by omega) rfl, hread (k := 1) (by omega) (by omega) rfl,
    hread (k := 2) (by omega) (by omega) rfl⟩

/-- Settles O32, by the memory check: three digits that fit are stored, otherwise `I` is recorded. -/
theorem decimalDigitsStored : Obligations.DecimalDigitsStored :=
  ⟨fun x => decodeWord_encode (i := .ldBVx x) rfl, fun x s =>
    ⟨fun hs hfit => exists_next_of_writeBytes (ReadsDecimal (s.getV x) s.i.toNat) (exec_ldBVx x hfit) hs rfl hfit
        (State.readsDecimal_writeBytes hs hfit _),
      fun hout => ⟨_, exec_ldBVx_out x (Nat.not_le.mpr hout), raisedOnly_of_raise s _⟩⟩⟩

/-- Settles O33, by the memory check: a range that fits is stored, otherwise `I` is recorded. -/
theorem registersStored : Obligations.RegistersStored :=
  ⟨fun x => decodeWord_encode (i := .ldIVx x) rfl, fun x s =>
    ⟨fun hs hfit => exists_next_of_writeBytes
        (fun read => ∀ r : Reg, r.toNat ≤ x.toNat → read (s.i.toNat + r.toNat) = s.getV r)
        (exec_ldIVx x hfit) hs (s.advancePc.length_regList _) hfit
        (State.readMem_writeBytes_regRange (s := s.advancePc) hs hfit),
      fun hout => ⟨_, exec_ldIVx_out x (Nat.not_le.mpr hout), raisedOnly_of_raise s _⟩⟩⟩

/-! ## Loads from `I` (R205) -/

theorem State.getV_loadRegs_le (s : State) (a : Nat) {x r : Reg} (hr : r.toNat ≤ x.toNat) :
    (s.loadRegs a (x.toNat + 1)).getV r = s.readMem (a + r.toNat) := by
  rw [State.getV_loadRegs s a _ x.isLt, if_pos (Nat.lt_succ_of_le hr)]

theorem State.getV_loadRegs_above (s : State) (a : Nat) {x r : Reg} (hr : ¬ r.toNat ≤ x.toNat) :
    (s.loadRegs a (x.toNat + 1)).getV r = s.getV r := by
  rw [State.getV_loadRegs s a _ x.isLt, if_neg (fun h => hr (Nat.le_of_lt_succ h))]

/-- The load touches registers only, so `PC` stays where the fetch put it. -/
theorem nextPc_loadRegs (s : State) (a n : Nat) : NextPc s (s.advancePc.loadRegs a n).updateTimers.nextInput := by
  rw [State.loadRegs_eq]
  rfl

/-- Settles O34, by the memory check: a range that fits is loaded, otherwise `I` is recorded. -/
theorem registersLoaded : Obligations.RegistersLoaded :=
  ⟨fun x => decodeWord_encode (i := .ldVxI x) rfl, fun x s =>
    ⟨fun hfit => ⟨_, exec_ldVxI x hfit, fun _ hr => s.advancePc.getV_loadRegs_le _ hr,
        fun _ hr => s.advancePc.getV_loadRegs_above _ hr, nextPc_loadRegs s _ _, onlyRegsAndPc_loadRegs s _ _⟩,
      fun hout => ⟨_, exec_ldVxI_out x (Nat.not_le.mpr hout), raisedOnly_of_raise s _⟩⟩⟩

/-- Settles O35: the load reads what the store left, from the `I` that the store kept. -/
theorem storeThenLoadRestoresRegisters : Obligations.StoreThenLoadRestoresRegisters := by
  intro x s hs hfit
  obtain ⟨t, hstore, hread, -⟩ := (registersStored.2 x s).1 hs hfit
  have hend := cycleEnd_of_exec hstore
  refine ⟨t, hstore, fun u hparams hmem hi => ?_⟩
  have hui : u.i = s.i := hi.trans (hend.i_eq rfl)
  have husize : u.memSize = s.memSize := by rw [State.memSize, hparams, hend.params_eq, State.memSize]
  have hufit : u.i.toNat + x.toNat + 1 ≤ u.memSize := by rwa [hui, husize]
  have humem (a : Nat) : u.readMem a = t.readMem a := by rw [State.readMem, hparams, hmem, State.readMem]
  obtain ⟨w, hload, hw, -⟩ := (registersLoaded.2 x u).1 hufit
  exact ⟨w, hload, fun r hr => by rw [hw r hr, hui, humem, hread r hr]⟩

end Sys2Proof.Machine

namespace Sys2Proof.Machine

open Sys2Proof

/-! # Display (spec/44_display.md R220 to R226) -/

/-! ## CLS (R220) -/

@[simp] theorem FrameBuffer.pixel_cleared (p r : Nat) : FrameBuffer.pixel FrameBuffer.cleared p r = false := by
  rw [FrameBuffer.pixel, FrameBuffer.byteAt_cleared, BitVec.ofNat_eq_ofNat, BitVec.getLsbD_zero]

/-- A cleared buffer shows the host no lit pixel (R225). -/
theorem State.pixelLit_of_cleared {t : State} (h : t.fb = FrameBuffer.cleared) (p r : Nat) :
    t.pixelLit p r = false := by
  rw [State.pixelLit, h, FrameBuffer.pixel_cleared, Bool.and_false]

/-- Settles O36: the identifier of `0nE0` is that of CLS for every `n`; the cycle writes the buffer and its event. -/
theorem clearEmptiesDisplay : Obligations.ClearEmptiesDisplay :=
  ⟨fun n => decodeWord_of_identifier (opcodeId_word4_family0 n 0xE 0x0) (build := fun _ => .cls) rfl,
    fun s => ⟨_, exec_cls s, FrameBuffer.byteAt_cleared, State.pixelLit_of_cleared rfl, rfl, fun _ => rfl, rfl, rfl,
      fun _ => rfl, ⟨rfl, rfl⟩, rfl, timersStepped_of_done rfl rfl, ⟨rfl, rfl, rfl, rfl⟩, rfl⟩⟩

/-! ## The sprite of DRW in the compositor (R221 to R223) -/

@[simp] theorem State.length_sprite (s : State) (n : Nibble) : (s.sprite n).length = n.toNat :=
  s.length_readBytes _ _

theorem State.sprite_eq_nil (s : State) {n : Nibble} (hn : n.toNat = 0) : s.sprite n = [] :=
  List.eq_nil_of_length_eq_zero ((s.length_sprite n).trans hn)

theorem State.getD_sprite (s : State) {n : Nibble} {k : Nat} (hk : k < n.toNat) :
    (s.sprite n).getD k 0 = s.readMem (s.i.toNat + k) :=
  s.getD_readBytes _ _ _ hk

/-- `spriteBitAt` is the compositor's own bit: that of row `q - y` of the sprite, on the sprite's rows. -/
theorem spriteBitAt_eq (s : State) (x y : Nat) (n : Nibble) (p q : Nat) :
    spriteBitAt s x y n.toNat p q =
      (decide (y ≤ q ∧ q < y + n.toNat) && spritePixel x ((s.sprite n).getD (q - y) 0) p) := by
  by_cases hq : y ≤ q ∧ q < y + n.toNat
  · rw [s.getD_sprite (by omega)]
    simp [spriteBitAt, spritePixel, hq]
  · rw [spriteBitAt, decide_eq_false hq, decide_eq_false fun h => hq ⟨h.1, h.2.1⟩, Bool.false_and, Bool.false_and]

/-- Bit `j` of the byte for row `k` is drawn on row `y + k`, `7 - j` columns to the right of `x` (R222). -/
theorem spriteBitAt_of_getLsbD {s : State} {n k j : Nat} (x y : Nat) (hk : k < n) (hj : j < 8)
    (hbit : (s.readMem (s.i.toNat + k)).getLsbD j = true) :
    spriteBitAt s x y n (x + (7 - j)) (y + k) = true := by
  have hcolumn : 7 - (x + (7 - j) - x) = j := by omega
  rw [spriteBitAt, decide_eq_true (by omega), Nat.add_sub_cancel_left, hcolumn, hbit, Bool.and_true]

/-- Where the sprite's bits fall depends on `I` and memory alone. -/
theorem spriteBitAt_congr {s t : State} (hi : t.i = s.i) (hm : SameMem s t) (x y n p q : Nat) :
    spriteBitAt t x y n p q = spriteBitAt s x y n p q := by
  rw [spriteBitAt, hi, hm, spriteBitAt]

/-- Every internal pixel after a draw that the display bounds admit; with `n = 0` nothing is addressed (D14). -/
theorem pixel_blit_sprite (s : State) {x y : Nat} {n : Nibble} (hb : n.toNat = 0 ∨ (x ≤ 63 ∧ y + n.toNat ≤ 36))
    (p q : Nat) : FrameBuffer.pixel (blit s.fb x y (s.sprite n)) p q =
      (FrameBuffer.pixel s.fb p q != spriteBitAt s x y n.toNat p q) := by
  rw [spriteBitAt_eq]
  obtain hn | ⟨hx, hy⟩ := hb
  · rw [s.sprite_eq_nil hn, hn, decide_eq_false (by omega), Bool.false_and, Bool.bne_false, blit]
  · rw [pixel_blit s.fb _ hx (by rwa [State.length_sprite]), State.length_sprite]

/-- When a draw that the display bounds admit collides (R223). -/
theorem blitCollides_sprite_iff (s : State) {x y : Nat} {n : Nibble}
    (hb : n.toNat = 0 ∨ (x ≤ 63 ∧ y + n.toNat ≤ 36)) :
    blitCollides s.fb x y (s.sprite n) = true ↔
      ∃ p q, FrameBuffer.pixel s.fb p q = true ∧ spriteBitAt s x y n.toNat p q = true := by
  simp only [spriteBitAt_eq, Bool.and_eq_true, decide_eq_true_eq]
  obtain hn | ⟨hx, hy⟩ := hb
  · rw [s.sprite_eq_nil hn, blitCollides]
    constructor
    · nofun
    · rintro ⟨p, q, -, hrow, -⟩
      omega
  · rw [blitCollides_iff s.fb _ hx (by rwa [State.length_sprite]), State.length_sprite]
    constructor
    · rintro ⟨k, p, hk, hpixel, hsprite⟩
      exact ⟨p, y + k, hpixel, by omega, by rwa [Nat.add_sub_cancel_left]⟩
    · rintro ⟨p, q, hpixel, hrow, hsprite⟩
      exact ⟨q - y, p, by omega, by rwa [Nat.add_sub_cancel' hrow.1], hsprite⟩

/-! ## DRW (R221, R224) -/

theorem flagByte_eq_one_iff (c : Bool) : flagByte c = 1 ↔ c = true := by
  cases c <;> decide

theorem sameRegsBut_drawn (s : State) (x y : Byte) (sprite : List Byte) :
    SameRegsBut (· = 15) s (s.advancePc.drawn x y sprite).updateTimers.nextInput :=
  fun _ hr => State.getV_setV_ne s.advancePc _ hr

/-- Settles O37, by the compositor: a draw within both bounds writes the buffer, VF and its event. -/
theorem drawXorsPixels : Obligations.DrawXorsPixels := by
  refine ⟨fun x y n => decodeWord_encode (i := .drw x y n) rfl, fun x y n s hi hb => ?_⟩
  have hflag := flag_drawn s.advancePc (s.getV x) (s.getV y) (s.sprite n)
  refine ⟨_, exec_drw hi ((blitInBounds_iff _ _ _).mpr hb), pixel_blit_sprite s hb, ?_, ?_,
    sameRegsBut_drawn s _ _ _, rfl, rfl, fun _ => rfl, ⟨rfl, rfl⟩, rfl, rfl, timersStepped_of_done rfl rfl,
    ⟨rfl, rfl, rfl, rfl⟩, rfl⟩
  · rw [hflag]
    exact flagByte_eq _
  · rw [hflag, flagByte_eq_one_iff]
    exact blitCollides_sprite_iff s hb

/-- The number that a display fault records (R262). -/
theorem wordOfBytes_eq_ofNat (h l : Byte) : wordOfBytes h l = BitVec.ofNat 16 (256 * h.toNat + l.toNat) := by
  rw [← toNat_wordOfBytes, BitVec.ofNat_toNat, BitVec.setWidth_eq]

/-- Settles O38: the sprite check comes first; a draw that passes it and leaves the buffer fails the second. -/
theorem drawOutOfBoundsRaises : Obligations.DrawOutOfBoundsRaises := by
  refine fun x y n s => ⟨fun hout => ⟨_, exec_drw_sprite (Nat.not_le.mpr hout), raisedOnly_of_raise s _⟩,
    fun hi hn hout => ?_⟩
  have hb : ¬ blitInBounds (s.getV x).toNat (s.getV y).toNat n.toNat = true := by
    rw [blitInBounds_iff]
    omega
  exact ⟨_, exec_drw_display hi hb, wordOfBytes_eq_ofNat (s.getV y) (s.getV x) ▸ raisedOnly_of_raise s _⟩

/-! ## Drawing twice -/

/-- The pixels alone decide the bytes: bit `j` of byte column `c` is pixel column `8 * c + (7 - j)` (R38). -/
theorem FrameBuffer.byteAt_eq_of_pixel {f g : FrameBuffer}
    (h : ∀ p q, FrameBuffer.pixel f p q = FrameBuffer.pixel g p q) (r c : Nat) :
    FrameBuffer.byteAt f r c = FrameBuffer.byteAt g r c := by
  apply BitVec.eq_of_getLsbD_eq
  intro j hj
  have hcolumn : (8 * c + (7 - j)) / 8 = c := by omega
  have hbit : 7 - (8 * c + (7 - j)) % 8 = j := by omega
  have hpixel := h (8 * c + (7 - j)) r
  rwa [FrameBuffer.pixel, FrameBuffer.pixel, hcolumn, hbit] at hpixel

theorem exists_getLsbD_of_ne_zero {b : Byte} (h : b ≠ 0) : ∃ j, j < 8 ∧ b.getLsbD j = true := by
  by_contra hnone
  refine h (BitVec.eq_of_getLsbD_eq fun j hj => ?_)
  rw [BitVec.ofNat_eq_ofNat, BitVec.getLsbD_zero]
  exact Bool.eq_false_iff.mpr fun hbit => hnone ⟨j, hj, hbit⟩

/-- Settles O39: the first draw keeps the place and the sprite, so the second XORs the same bits; a bit of the sprite
that met no set pixel the first time has set one. -/
theorem drawTwiceRestores : Obligations.DrawTwiceRestores := by
  intro x y n s hx hy hi hbx hby
  obtain ⟨t, ht, htpixel, -, htflag, htregs, hti, -, htmem, -⟩ := drawXorsPixels.2 x y n s hi (.inr ⟨hbx, hby⟩)
  have htsize : t.memSize = s.memSize := by rw [State.memSize, (cycleEnd_of_exec ht).params_eq, State.memSize]
  have htx := htregs x hx
  have hty := htregs y hy
  obtain ⟨w, hw, hwpixel, -, hwflag, -⟩ := drawXorsPixels.2 x y n t (by rwa [hti, htsize])
    (.inr ⟨by rwa [htx], by rwa [hty]⟩)
  simp only [htx, hty, spriteBitAt_congr hti htmem] at hwpixel hwflag
  refine ⟨t, w, ht, hw, FrameBuffer.byteAt_eq_of_pixel fun p q => ?_, fun hmiss ⟨k, hk, hbyte⟩ => ?_⟩
  · rw [hwpixel, htpixel, Bool.bne_assoc, bne_self_eq_false, Bool.bne_false]
  · obtain ⟨j, hj, hbit⟩ := exists_getLsbD_of_ne_zero hbyte
    have hsprite := spriteBitAt_of_getLsbD (s.getV x).toNat (s.getV y).toNat hk hj hbit
    refine hwflag.mpr ⟨_, _, ?_, hsprite⟩
    rw [htpixel, hsprite, Bool.bne_true, Bool.not_eq_true']
    refine Bool.eq_false_iff.mpr fun hlit => ?_
    rw [htflag.mpr ⟨_, _, hlit, hsprite⟩] at hmiss
    cases hmiss

end Sys2Proof.Machine

namespace Sys2Proof.Machine

open Sys2Proof

/-! # Keypad and timers (spec/45_input_timers.md R240 to R246) -/

/-! ## Skips on a key (R240, R241) -/

theorem skipAdvance_not (c : Bool) : skipAdvance (!c) = if c then 2 else 4 := by
  cases c <;> rfl

/-- Settles O40, by the key check: a number that passes skips on its key's level, another is recorded. -/
theorem skipsOnKey : Obligations.SkipsOnKey := by
  refine ⟨fun x => ⟨decodeWord_encode (i := .skp x) rfl, decodeWord_encode (i := .sknp x) rfl⟩,
    fun x s => ⟨fun hkey => ?passes, fun habove => ?fails⟩⟩
  case passes =>
    exact ⟨exists_next_of_skipIf (exec_skp hkey) rfl, exists_next_of_skipIf (exec_sknp hkey) (skipAdvance_not _)⟩
  case fails =>
    have hfail := Nat.not_le.mpr habove
    exact ⟨⟨_, exec_skp_above hfail, raisedOnly_of_raise s _⟩, ⟨_, exec_sknp_above hfail, raisedOnly_of_raise s _⟩⟩

/-! ## Cycles that write one register (R242, R243) -/

/-- Settles O41: the byte written is `DT` as the handler sees it, before the timer unit runs. -/
theorem readDelayTimer : Obligations.ReadDelayTimer :=
  ⟨fun x => decodeWord_encode (i := .ldVxDt x) rfl,
    fun x s => exists_next_of_setV (· = s.dt) (exec_ldVxDt x s) rfl⟩

/-- Settles O43: the byte written is the reported key, zero-extended. -/
theorem keyWaitCompletes : Obligations.KeyWaitCompletes :=
  ⟨fun x => decodeWord_encode (i := .wKey x) rfl,
    fun x k _ hkey => exists_next_of_setV (·.toNat = k.toNat) (exec_wKey x hkey) (toNat_zextKey k)⟩

/-! ## Cycles that load a timer (R244, R245) -/

/-- A cycle ran to its end and touched nothing but the timers and `PC`. -/
def OnlyTimersAndPc (s t : State) : Prop :=
  SameRegs s t ∧ t.i = s.i ∧ NextPc s t ∧ SameMem s t ∧ SameFb s t ∧ SameStack s t ∧ t.fault = s.fault ∧
    t.events = s.events ∧ CycleTaken s t

theorem onlyTimersAndPc_of {s u : State} (h : u = { s.advancePc with dt := u.dt, st := u.st }) :
    OnlyTimersAndPc s u.updateTimers.nextInput := by
  rw [h]
  exact ⟨fun _ => rfl, rfl, rfl, fun _ => rfl, fun _ _ => rfl, ⟨rfl, rfl⟩, rfl, rfl, ⟨rfl, rfl, rfl, rfl⟩, rfl⟩

/-- Settles O42: the timer unit runs after execute (R306), so it counts the loaded timer down as it does the
other. -/
theorem loadTimers : Obligations.LoadTimers :=
  ⟨fun x => ⟨decodeWord_encode (i := .ldDtVx x) rfl, decodeWord_encode (i := .ldStVx x) rfl⟩, fun x s =>
    ⟨⟨_, exec_ldDtVx x s, toNat_countDown _, toNat_countDown _, onlyTimersAndPc_of rfl⟩,
      ⟨_, exec_ldStVx x s, toNat_countDown _, toNat_countDown _, onlyTimersAndPc_of rfl⟩⟩⟩

end Sys2Proof.Machine

namespace Sys2Proof.Machine

open Sys2Proof

/-! # Exceptions, events and the host's side (spec/60_exceptions.md R260 to R279, spec/70_reset_and_hazards.md R302) -/

/-! ## What a cycle raises and records, said once (R261 to R263, R273) -/

/-- The ends of the execute stage of `i`, begun in `s`, with the record `c` that each raises, if any, and the
events it leaves: a handler that runs to its end keeps the latch and has recorded the events of `i`, and one that
raises or holds has none to record. -/
inductive Reports (i : Instr) (s : State) : Option FaultRecord → Stage → Prop
  | done {u : State} (hfault : u.fault = s.fault) (hevents : u.events = eventsOf s.params false i ++ s.events) :
      Reports i s none (.done u)
  | raised (f : FaultRecord) (hsilent : eventsOf s.params true i = []) : Reports i s (some f) (.raised f)
  | hold (hsilent : eventsOf s.params false i = []) : Reports i s none .hold

section Reports

variable {i : Instr} {s : State} {c : Option FaultRecord} {k : Stage}

/-- A check that passes on `p` raises exactly where its row of the tables of causes, stated as `q`, says so. -/
theorem Reports.check {p q : Prop} [Decidable p] [Decidable q] {f : FaultRecord} (hpq : q ↔ ¬ p)
    (hsilent : eventsOf s.params true i = []) (h : Reports i s c k) :
    Reports i s (if q then some f else c) (if p then k else .raised f) := by
  by_cases hp : p
  · rw [if_pos hp, if_neg fun hq => hpq.mp hq hp]
    exact h
  · rw [if_neg hp, if_pos (hpq.mpr hp)]
    exact .raised f hsilent

/-- The same for a check that raises on `p`. -/
theorem Reports.raiseIf {p : Prop} [Decidable p] {f : FaultRecord} (hsilent : eventsOf s.params true i = [])
    (h : Reports i s c k) : Reports i s (if p then some f else c) (if p then .raised f else k) := by
  by_cases hp : p
  · rw [if_pos hp, if_pos hp]
    exact .raised f hsilent
  · rw [if_neg hp, if_neg hp]
    exact h

theorem reports_skipIf (hsilent : eventsOf s.params false i = []) (b : Bool) :
    Reports i s none (.done (s.skipIf b)) := by
  rw [State.skipIf_eq]
  exact .done rfl (by rw [hsilent]; rfl)

theorem reports_loadRegs (x : Reg) (s : State) (a n : Nat) : Reports (.ldVxI x) s none (.done (s.loadRegs a n)) := by
  rw [State.loadRegs_eq]
  exact .done rfl rfl

theorem reports_waitKey (x : Reg) (s : State) : Reports (.wKey x) s none (waitKey x s) := by
  cases hkey : s.input.keyReport with
  | none => rw [waitKey_none hkey]; exact .hold rfl
  | some _ => rw [waitKey_some hkey]; exact .done rfl rfl

theorem reports_sys (nnn : Addr12) (s : State) :
    Reports (.sys nnn) s (causeOf s (.sys nnn)) (unknownOpcode (wordNNN 0x0 nnn) s) := by
  cases hpolicy : s.params.unknownOpcode with
  | failFast =>
    rw [unknownOpcode_failFast hpolicy, causeOf, if_pos hpolicy]
    exact .raised _ (by simp [eventsOf, hpolicy])
  | skip =>
    rw [unknownOpcode_skip hpolicy, causeOf, if_neg (by simp [hpolicy])]
    exact .done rfl (by simp [eventsOf, hpolicy])

/-- DRW checks the sprite range before the display bounds, as its row of the tables orders them (R263). -/
theorem reports_drw (x y : Reg) (n : Nibble) (s : State) :
    Reports (.drw x y n) s (causeOf s (.drw x y n))
      (s.memCheck .sprite s.i n.toNat (Stage.blitCheck (s.getV x) (s.getV y) n.toNat
        (.done (s.drawn (s.getV x) (s.getV y) (s.sprite n))))) := by
  rw [causeOf, ← wordOfBytes_eq_ofNat]
  refine .check (by rw [State.inBounds_iff]; omega) rfl (.check ?_ rfl (.done rfl rfl))
  rw [blitInBounds_iff]
  omega

/-- What the end of a cycle leaves in the latch is what its execute stage raised. -/
theorem Reports.fault_eq (h : Reports i s.advancePc c k) (hf : s.fault = none) : (s.endCycle k).fault = c := by
  cases h with
  | done hfault _ => exact hfault.trans hf
  | raised f _ => rfl
  | hold _ => exact hf

theorem Reports.events_eq (h : Reports i s.advancePc c k) :
    (s.endCycle k).events = eventsOf s.params c.isSome i ++ s.events := by
  cases h with
  | done _ hevents => exact hevents
  | raised f hsilent | hold hsilent => exact congrArg (· ++ s.events) hsilent.symm

end Reports

/-- Every instruction's execute stage raises what the tables of causes say, within the capacity of the stack, and
records the events of its instruction. -/
theorem exec_reports (i : Instr) (s : State) : ∃ c k, exec i s = .next (s.endCycle k) ∧
    Reports i s.advancePc c k ∧ (s.sp ≤ s.stackCapacity → c = causeOf s i) := by
  cases i with
  | cls | jp _ | ldV0 _ | ldByte _ _ | addByte _ _ | ldVxVy _ _ | or _ _ | and _ _ | xor _ _ | add _ _
  | sub _ _ | shr _ | subn _ _ | shl _ | rnd _ _ | ldI _ | addIVx _ | ldVxDt _ | ldDtVx _ | ldStVx _ =>
    exact ⟨none, _, rfl, .done rfl rfl, fun _ => rfl⟩
  | seByte _ _ | sneByte _ _ | seReg _ _ | sneReg _ _ =>
    exact ⟨none, _, rfl, reports_skipIf rfl _, fun _ => rfl⟩
  | wKey x => exact ⟨none, _, rfl, reports_waitKey x _, fun _ => rfl⟩
  | sys nnn => exact ⟨_, _, rfl, reports_sys nnn _, fun _ => rfl⟩
  | drw x y n => exact ⟨_, _, rfl, reports_drw x y n _, fun _ => rfl⟩
  | skp _ | sknp _ =>
    exact ⟨_, _, rfl, .check Nat.not_le.symm rfl (reports_skipIf rfl _), fun _ => rfl⟩
  | ldFVx _ => exact ⟨_, _, rfl, .check Nat.not_le.symm rfl (.done rfl rfl), fun _ => rfl⟩
  | ldBVx _ | ldIVx _ =>
    exact ⟨_, _, rfl, .check (by rw [State.inBounds_iff]; exact Nat.not_le.symm) rfl (.done rfl rfl), fun _ => rfl⟩
  | ldVxI x =>
    exact ⟨_, _, rfl, .check (by rw [State.inBounds_iff]; exact Nat.not_le.symm) rfl (reports_loadRegs x _ _ _),
      fun _ => rfl⟩
  | ret => exact ⟨_, _, rfl, .raiseIf rfl (.done rfl rfl), fun _ => rfl⟩
  | call nnn =>
    exact ⟨_, _, rfl, .raiseIf rfl (.done rfl rfl), fun hsp => if_congr hsp.ge_iff_eq rfl rfl⟩

/-- Inversion: a next state of `exec` is the end of a cycle that raises and records so. -/
theorem reports_of_exec {i : Instr} {s t : State} (h : exec i s = .next t) : ∃ c k, t = s.endCycle k ∧
    Reports i s.advancePc c k ∧ (s.sp ≤ s.stackCapacity → c = causeOf s i) := by
  obtain ⟨c, k, hk, hreports⟩ := exec_reports i s
  cases hk.symm.trans h
  exact ⟨c, k, rfl, hreports⟩

/-- Settles O48: only an execute stage that raised leaves a record, and its cycle ends in the raise alone. -/
theorem faultsArePrecise : Obligations.FaultsArePrecise := by
  intro i s t f hf h ht
  obtain ⟨c, k, rfl, hreports, -⟩ := reports_of_exec h
  obtain rfl : c = some f := (hreports.fault_eq hf).symm.trans ht
  cases hreports with
  | raised _ _ => exact raisedOnly_of_raise s f

/-- Settles O56: the events are those of the end that the execute stage took. -/
theorem eventsOfACycle : Obligations.EventsOfACycle := by
  intro i s t hf h
  obtain ⟨c, k, rfl, hreports, -⟩ := reports_of_exec h
  rw [hreports.fault_eq hf]
  exact hreports.events_eq

/-- A word without an instruction raises by the policy alone (R125). -/
theorem fault_of_unknownCycle {s t : State} {ir : Word} (hf : s.fault = none) (h : unknownCycle ir s = .next t) :
    t.fault = if s.params.unknownOpcode = .failFast then some ⟨.unknownOpcode, ir⟩ else none := by
  cases hpolicy : s.params.unknownOpcode with
  | failFast =>
    obtain ⟨u, hu, hfault, -⟩ := unknownCycle_failFast hpolicy ir
    cases hu.symm.trans h
    exact hfault
  | skip =>
    obtain ⟨u, hu, hfault, -⟩ := unknownCycle_skip hpolicy ir
    cases hu.symm.trans h
    exact hfault.trans hf

/-- Settles O49, by the cases of a step, in the order of R263: the fetch, the decoder, the handler. -/
theorem faultCausesExactly : Obligations.FaultCausesExactly := by
  intro s t hf ha hsp hstep
  obtain ⟨-, ⟨hpaused, -⟩ | ⟨-, hp, rfl⟩ | ⟨-, hp, hd, h⟩ | ⟨i, -, hp, hd, h⟩⟩ := step_cases hstep
  · rw [ha] at hpaused; cases hpaused
  · rw [causeOfCycle, if_pos (Nat.not_le.mp hp)]; rfl
  · rw [causeOfCycle, if_neg (Nat.not_lt.mpr hp), hd]
    exact fault_of_unknownCycle hf h
  · rw [causeOfCycle, if_neg (Nat.not_lt.mpr hp), hd]
    obtain ⟨c, k, rfl, hreports, hcause⟩ := reports_of_exec h
    exact (hreports.fault_eq hf).trans (hcause hsp)

/-! ## The halted block (R265) -/

theorem step_total {s : State} (hf : s.fault = none) : ∃ t, step s = .next t := by
  cases ha : s.active with
  | false => exact ⟨s, by rw [step, State.action_paused hf ha]⟩
  | true =>
    by_cases hp : s.pc.toNat + 2 ≤ s.memSize
    · cases hd : decodeWord s.wordAtPc with
      | none =>
        rw [step, State.action_active hf ha hp, State.fetchDecode_eq, hd]
        exact ⟨_, runCycle_eq _ s⟩
      | some i =>
        obtain ⟨t, ht, -⟩ := exec_total i s
        exact ⟨t, (step_eq_exec hf ha hp hd).trans ht⟩
    · exact ⟨_, step_fetchFault hf ha hp⟩

/-- Settles O10: without a latched fault each case of the step answers a next state; with one, the action is the
halt. -/
theorem stepStopsExactlyWhenHalted : Obligations.StepStopsExactlyWhenHalted :=
  fun _ => ⟨step_total, fun _ hf => by rw [step, State.action_of_fault hf]⟩

/-! ## `waiting_key` (R276) -/

theorem Action.eq_wKey_of_isWKey {a : Action} (h : a.isWKey = true) : ∃ x, a = .execute (.wKey x) := by
  unfold Action.isWKey at h
  split at h
  · exact ⟨_, rfl⟩
  · cases h

/-- Settles O45: the output shows a W_KEY without a key report, which is the hold; at a W_KEY without the output
there is a report. -/
theorem waitingKeyShowsTheHold : Obligations.WaitingKeyShowsTheHold := by
  refine fun s hf ha => ⟨fun hwait => ?asserted, fun x hp hd hwait => ?deasserted⟩
  case asserted =>
    rw [State.waitingKey, Bool.and_eq_true, Option.isNone_iff_eq_none] at hwait
    obtain ⟨hkey, hnone⟩ := hwait
    obtain ⟨x, hx⟩ := Action.eq_wKey_of_isWKey hkey
    exact ⟨s.held, by rw [step, hx]; exact exec_wKey_hold x hnone, sameBlock_held s, cycleHeld_held s⟩
  case deasserted =>
    rw [State.waitingKey_of_wKey hf ha hp hd, Option.isNone_eq_false_iff, Option.isSome_iff_exists] at hwait
    obtain ⟨k, hk⟩ := hwait
    obtain ⟨t, ht, hcode, -, hpc, -, -, -, -, -, -, -, htaken⟩ := keyWaitCompletes.2 x k s hk
    exact ⟨t, (step_eq_exec hf ha hp hd).trans ht, hpc, htaken, k, hcode⟩

/-! ## The loader and the boot order (R276, R302) -/

theorem State.loaderWrite_eq_some {s : State} {a : Nat} {bytes : List Byte} (hidle : s.active = false)
    (hfit : a + bytes.length ≤ s.memSize) : s.loaderWrite a bytes = some (s.writeBytes a bytes) := by
  simp [State.loaderWrite, hidle, hfit]

theorem State.loaderWrite_eq_none {s : State} {a : Nat} {bytes : List Byte}
    (h : s.run = true ∨ s.holding = true ∨ a + bytes.length > s.memSize) : s.loaderWrite a bytes = none := by
  obtain hrun | hhold | hlong := h
  · simp [State.loaderWrite, State.active_of_run hrun]
  · simp [State.loaderWrite, State.active_of_holding hhold]
  · simp [State.loaderWrite, Nat.not_le.mpr hlong]

/-- An image fits above 0x200 exactly if it is at most `MAX_PROG_BYTES` long (R7, R76). -/
theorem progBase_add_le_iff (m : Config.MemSize) (n : Nat) : progBase + n ≤ m.bytes ↔ n ≤ maxProgBytes m := by
  cases m <;> simp only [progBase, maxProgBytes, Config.MemSize.bytes] <;> omega

/-- The block as the boot order resets it, with the gate deasserted, before the image is written. -/
def State.resetStopped (s : State) : State := (s.setRun false).assertReset

theorem State.memWf_resetStopped (s : State) : s.resetStopped.memWf = true := Memory.wf_nil _ _

theorem State.boot_eq_some {s : State} {image : List Byte} (hfit : progBase + image.length ≤ s.memSize) :
    s.boot image = some ((s.resetStopped.writeBytes progBase image).setRun true) := by
  have hwrite : s.resetStopped.loaderWrite progBase image = some (s.resetStopped.writeBytes progBase image) :=
    State.loaderWrite_eq_some (State.active_eq_false rfl rfl) hfit
  exact congrArg (Option.map (·.setRun true)) hwrite

theorem State.boot_eq_none {s : State} {image : List Byte} (hlong : progBase + image.length > s.memSize) :
    s.boot image = none := by
  have hwrite : s.resetStopped.loaderWrite progBase image = none := State.loaderWrite_eq_none (.inr (.inr hlong))
  exact congrArg (Option.map (·.setRun true)) hwrite

/-- The booted block meets the invariant, as the reset one does: it differs in memory and in the host's side. -/
theorem inv_boot {s : State} {image : List Byte} (hfit : progBase + image.length ≤ s.memSize) :
    ((s.resetStopped.writeBytes progBase image).setRun true).Inv where
  memWf := State.memWf_writeBytes s.memWf_resetStopped progBase image hfit
  stackLength := (inv_resetWith s.params).stackLength
  spBound := (inv_resetWith s.params).spBound
  pcBound := (inv_resetWith s.params).pcBound
  returnBound := (inv_resetWith s.params).returnBound
  holdingKey := nofun

/-- Settles O59: the loader writes bytes that fit into a stopped block and nothing else, and the boot order is that
write between a reset and the gate. -/
theorem bootPlacesTheImage : Obligations.BootPlacesTheImage := by
  refine ⟨fun s a bytes => ⟨fun hwf hrun hhold hfit => ?write, State.loaderWrite_eq_none⟩,
    fun s image => ⟨fun hlen => ?boot, fun hlen => ?long⟩, rfl⟩
  case write =>
    exact ⟨_, State.loaderWrite_eq_some (State.active_eq_false hrun hhold) hfit,
      fun j hj => State.readMem_writeBytes_add hwf hfit hj, fun b hb => State.readMem_writeBytes_outside hwf hfit hb,
      State.memWf_writeBytes hwf a bytes hfit, rfl⟩
  case boot =>
    have hfit : progBase + image.length ≤ s.memSize := (progBase_add_le_iff _ _).mpr hlen
    have hwf := s.memWf_resetStopped
    exact ⟨_, State.boot_eq_some hfit, fun j hj => State.readMem_writeBytes_add hwf hfit hj,
      fun b hb => State.readMem_writeBytes_outside hwf hfit hb, sameBlock_of_eq rfl, rfl, rfl, rfl, rfl, rfl,
      inv_boot hfit⟩
  case long =>
    exact State.boot_eq_none (Nat.not_le.mp fun hfit => Nat.not_le.mpr hlen ((progBase_add_le_iff _ _).mp hfit))

end Sys2Proof.Machine

namespace Sys2Proof.Machine

open Sys2Proof

/-! # Reset and the terminated program (spec/70_reset_and_hazards.md R300, R304) -/

/-! ## A JP to its own address (R304) -/

/-- The 12 bits of a JP reach every address below 4096, so a `PC` there is its own target (R151). -/
theorem zextAddr_setWidth_of_lt {w : Word} (h : w.toNat < 4096) : zextAddr (w.setWidth 12) = w := by
  refine BitVec.eq_of_toNat_eq ?_
  rw [toNat_zextAddr, BitVec.toNat_setWidth, Nat.mod_eq_of_lt h]

/-- An admitted fetch is below 4096: memory is no longer than that (R62, R63). -/
theorem State.pc_lt_of_fetch {s : State} (hp : s.pc.toNat + 2 ≤ s.memSize) : s.pc.toNat < 4096 := by
  have := s.memSize_cases
  omega

/-- The step of a terminated program is the cycle of a transfer to the `PC` it began with. -/
theorem step_of_spinning {s : State} (hs : s.spinning) (ha : s.active = true) :
    step s = .next (s.advancePc.setPc s.pc).updateTimers.nextInput := by
  obtain ⟨hf, hfetch, hword⟩ := hs
  have hp : s.pc.toNat + 2 ≤ s.memSize := s.canFetch_iff.mp hfetch
  have hd : decodeWord s.wordAtPc = some (.jp (s.pc.setWidth 12)) := by
    rw [State.wordAtPc, hword]
    exact decodeWord_encode (i := .jp _) rfl
  rw [step_eq_exec hf ha hp hd, exec_jp, zextAddr_setWidth_of_lt (State.pc_lt_of_fetch hp)]

/-- Settles O13: the cycle writes `PC` with its own value, so memory, `PC` and the latch still make a terminated
program. -/
theorem jpToItselfOnlyStepsTimers : Obligations.JpToItselfOnlyStepsTimers := fun s hs ha =>
  ⟨_, step_of_spinning hs ha, rfl, fun _ => rfl, hs, onlyRegsAndPc_setPc s s.pc⟩

/-! ## Reset (R300, R37) -/

theorem State.getV_assertReset (s : State) (r : Reg) : s.assertReset.getV r = 0 := Vector.getElem_replicate _

theorem State.stackEntry_assertReset (s : State) (k : Nat) : s.assertReset.stackEntry k = 0 :=
  List.getD_eq_getElem?_getD.trans (List.getElem?_getD_replicate_default_eq ..)

/-- The display of the reset block is that of a completed CLS (R220). -/
theorem State.fb_assertReset (s : State) : s.assertReset.fb = FrameBuffer.cleared := rfl

/-- Memory of the reset block is the reset content alone (R66; D20). -/
theorem State.readMem_assertReset (s : State) (a : Nat) :
    s.assertReset.readMem a = Memory.unlisted s.params.font a := Memory.read_nil _ a

/-- Settles O58: the arrays are all zero, and memory lists no byte, so it reads as `FONT` and zero above. -/
theorem resetValues : Obligations.ResetValues := by
  refine ⟨fun s => ?values, rfl, by decide⟩
  refine ⟨s.getV_assertReset, rfl, rfl, rfl, rfl, rfl, List.length_replicate, s.stackEntry_assertReset,
    fun r c => ?display, rfl, rfl, rfl, fun a ha => ?font, fun a ha => ?above, sameBlock_of_eq rfl⟩
  case display => rw [s.fb_assertReset, FrameBuffer.byteAt_cleared]
  case font => rw [s.readMem_assertReset, Memory.unlisted_font ha]
  case above => rw [s.readMem_assertReset, Memory.unlisted_above ha]

end Sys2Proof.Machine
